-- ==== Sys2Proof/Word.lean ====
section
/-! DEFINITION. The unsigned fixed-width values of spec/00_scope.md rule R9. -/

namespace Sys2Proof

/-- `u8` of rule R9. -/
abbrev U8 := BitVec 8

/-- `u16` of rule R9. -/
abbrev U16 := BitVec 16

/-- `u32` of rule R9. -/
abbrev U32 := BitVec 32

/-- `u64` of rule R9. -/
abbrev U64 := BitVec 64

end Sys2Proof
end

