-- ==== Sys2Proof/Syntax.lean ====
section
/-! DEFINITION. The commands of spec/30_encoding.md rule R83, one constructor per row of spec/opcode_table.json. -/

namespace Sys2Proof

/-- A command. `len` is the 4-bit immediate LEN of rule R81, kept at every value its field can hold: 9 to 15 are decoded and
rejected later, with BADLEN (rule R84). The decoder's verdict `Illegal` is not a command. -/
inductive Instr where
  | nop
  | keyload
  | enc (len : BitVec 4)
  | dec (len : BitVec 4)
  | clrerr
  deriving DecidableEq, Repr

/-- `ENC` written without an operand means `ENC 8` (rule R87). -/
def Instr.encDefault : Instr := .enc 8

/-- `DEC` written without an operand means `DEC 8` (rule R87). -/
def Instr.decDefault : Instr := .dec 8

end Sys2Proof
end

