-- ==== Sys2Proof/WellFormed.lean ====
section
/-! DEFINITION. Which commands an assembler accepts (spec/30_encoding.md rules R81 and R87). -/

namespace Sys2Proof

/-- The operand of ENC and DEC is 0 to 8: "an assembler must refuse 9..15; the hardware rejects them" (rule R87).
The machine gives a meaning to ill-formed commands too: it rejects them with BADLEN (DESIGN CHOICE, log entry 20). -/
def Instr.wellFormed : Instr → Bool
  | .nop => true
  | .keyload => true
  | .enc len => decide (len.toNat ≤ 8)
  | .dec len => decide (len.toNat ≤ 8)
  | .clrerr => true

end Sys2Proof
end

