-- ==== Sys2Proof/Decode.lean ====
section
/-! DEFINITION. The decoder and encoder of command words (spec/30_encoding.md rules R80 to R87). -/

namespace Sys2Proof

/-- Why a word decodes as `Illegal` (rules R82 and R85): a nonzero RSVD field, a nonzero LEN on a command other than ENC and
DEC (or on a reserved OP), or a reserved OP. The machine treats all three alike, as BADCMD. -/
inductive Illegal where
  | rsvdNotZero
  | lenNotZero
  | reservedOp
  deriving DecidableEq, Repr

/-- OP, bits 7:0 (rule R80). -/
def opField (v : U32) : U8 := v.extractLsb' 0 8

/-- LEN, bits 11:8 (rules R80 and R81). -/
def lenField (v : U32) : BitVec 4 := v.extractLsb' 8 4

/-- RSVD, bits 31:12 (rule R80). -/
def rsvdField (v : U32) : BitVec 20 := v.extractLsb' 12 20

/-- `decode` of rule R84, in its order of tests. -/
def decode (v : U32) : Except Illegal Instr :=
  if rsvdField v ≠ 0 then .error .rsvdNotZero
  else if opField v = 0x02 then .ok (.enc (lenField v))
  else if opField v = 0x03 then .ok (.dec (lenField v))
  else if lenField v ≠ 0 then .error .lenNotZero
  else if opField v = 0x00 then .ok .nop
  else if opField v = 0x01 then .ok .keyload
  else if opField v = 0x04 then .ok .clrerr
  else .error .reservedOp

/-- A command word with RSVD zero: `RSVD || LEN || OP` (rule R80). -/
def commandWord (len : BitVec 4) (op : U8) : U32 := (0#20 ++ len) ++ op

/-- The word of each command (rule R87). -/
def encode : Instr → U32
  | .nop => commandWord 0 0x00
  | .keyload => commandWord 0 0x01
  | .enc len => commandWord len 0x02
  | .dec len => commandWord len 0x03
  | .clrerr => commandWord 0 0x04

/-- The assembler of rule R87: the command's word, or none for an operand of 9 to 15. -/
def assemble (i : Instr) : Option U32 := if i.wellFormed then some (encode i) else none

/-- The `match` column of rule R83's table. -/
def rowMatch : Instr → U32
  | .nop => 0x00000000
  | .keyload => 0x00000001
  | .enc _ => 0x00000002
  | .dec _ => 0x00000003
  | .clrerr => 0x00000004

/-- The `mask` column of rule R83's table. -/
def rowMask : Instr → U32
  | .nop => 0xFFFFFFFF
  | .keyload => 0xFFFFFFFF
  | .enc _ => 0xFFFFF0FF
  | .dec _ => 0xFFFFF0FF
  | .clrerr => 0xFFFFFFFF

/-- `v` selects the row of `i`: `v & mask = match` (rule R83). -/
def selectsRow (v : U32) (i : Instr) : Bool := v &&& rowMask i == rowMatch i

/-- The command word of `nbits` bits whose bits are `w`, numbered as spec/opcode_table.json numbers them; a command is one
32-bit value, so every bit above `nbits` is 0 and nothing stands above bit 31 (DEDUCED, log entry 19). -/
def tableWord (nbits w : Nat) : U32 := BitVec.ofNat 32 (w % 2 ^ nbits)

/-- The command the decoder reads from a word given as the opcode table numbers its bits. -/
def decodeTableWord (nbits w : Nat) : Option Instr :=
  match decode (tableWord nbits w) with
  | .ok i => some i
  | .error _ => none

end Sys2Proof
end

