-- ==== Sys2Proof/Machine/Bits.lean ====
section
/-! DEFINITION. Bit-field, byte-order and rotation helpers (spec/00_scope.md rules R10 to R12). -/

namespace Sys2Proof.Machine

/-- `byte_k(v) = v[8k+7:8k]` of a 64-bit value; byte 0 is the least significant (rule R10). -/
def byteOf (k : Nat) (v : U64) : U8 := (v >>> (8 * k)).setWidth 8

/-- The big-endian word `hi || lo` (rule R10, spec/20_memory.md rule R61). -/
def beWord (hi lo : U8) : U16 := hi ++ lo

/-- `v[15:8]`. -/
def highByte (v : U16) : U8 := v.extractLsb' 8 8

/-- `v[7:0]`. -/
def lowByte (v : U16) : U8 := v.extractLsb' 0 8

/-- `rotl16` of rule R12. -/
def rotl16 (x : U16) (n : Nat) : U16 := x.rotateLeft n

/-- `rotr16` of rule R12. -/
def rotr16 (x : U16) (n : Nat) : U16 := x.rotateRight n

/-- `rotl64` of rule R12. -/
def rotl64 (x : U64) (n : Nat) : U64 := x.rotateLeft n

/-- `rotr64` of rule R12. -/
def rotr64 (x : U64) (n : Nat) : U64 := x.rotateRight n

/-- Four bytes as a 32-bit register value: the byte earliest in stream order in bits 31:24 (spec/20_memory.md rule R61). -/
def lanes (a b c d : U8) : U32 := ((a ++ b) ++ c) ++ d

/-- Byte lane `i` of a 32-bit register value, lane 0 in bits 31:24 (spec/10_state.md rule R37). -/
def lane (i : Nat) (v : U32) : U8 := (v >>> (8 * (3 - i))).setWidth 8

/-- Write the four lanes of `v` to the bytes `base .. base+3` (spec/10_state.md rules R37 and R38). -/
def setLanes {n : Nat} (bytes : Vector U8 n) (base : Nat) (v : U32) : Vector U8 n :=
  (((bytes.setIfInBounds base (lane 0 v)).setIfInBounds (base + 1) (lane 1 v)).setIfInBounds
    (base + 2) (lane 2 v)).setIfInBounds (base + 3) (lane 3 v)

/-- A boolean as the 32-bit value 1 or 0 (spec/20_memory.md rule R66). -/
def bit32 (b : Bool) : U32 := (BitVec.ofBool b).setWidth 32

end Sys2Proof.Machine
end

