-- ==== Sys2Proof/Config.lean ====
section
/-! DEFINITION. The two parameters the spec leaves OPEN (spec/00_scope.md rule R8). No proof can see their values. -/

namespace Sys2Proof

/-- Free value: which multiple of 64 the base address of the window is (spec/10_state.md rule R36; DESIGN CHOICE, log entry 13). -/
opaque Config.baseBlock : Nat

/-- `BASE`, a multiple of 64 (spec/10_state.md rule R36, spec/93_implementation_defined.md I20). -/
def Config.base : Nat := 64 * Config.baseBlock

/-- Free value: the clock cycles of an engine step beyond the first (spec/70_reset_and_hazards.md rule R280; DESIGN CHOICE, log entry 13). -/
opaque Config.extraCycles : Nat

/-- `STEP_CYCLES`, at least 1 (spec/70_reset_and_hazards.md rule R280). No step of the model reads it. -/
def Config.stepCycles : Nat := Config.extraCycles + 1

end Sys2Proof
end

