-- ==== Sys2Proof/Machine/Params.lean ====
section
/-! DEFINITION. The numeric constants of the datapath and the window, each in one place (spec/93_implementation_defined.md I6,
spec/00_scope.md rules R7 and R8). -/

namespace Sys2Proof.Machine

/-- Rounds per block (rule R7). -/
def roundCount : Nat := 16

/-- Subkeys per round (rule R7). -/
def subkeyCount : Nat := 12

/-- Bits by which the key state turns per subkey (spec/40_key_schedule.md rule R102). -/
def keyRotation : Nat := 1

/-- Bits by which a round turns a working register (spec/43_feistel_engine.md rule R143). -/
def roundRotation : Nat := 1

/-- F's weight of the word's own mixing term (spec/42_round_f.md rule R130). -/
def weightOwn : U16 := 1

/-- F's weight of the other word's mixing term (spec/42_round_f.md rule R130). -/
def weightOther : U16 := 2

/-- Bytes of a block (rule R7). -/
def blockBytes : Nat := 8

/-- Bytes of the register window (rule R8). -/
def windowBytes : Nat := 64

/-- Engine steps per block: the rounds and one output step (rule R8). -/
def stepsPerBlock : Nat := roundCount + 1

/-- Clock cycles of a block after its accepting write (spec/70_reset_and_hazards.md rule R280). -/
def blockCycles : Nat := stepsPerBlock * Config.stepCycles

end Sys2Proof.Machine
end

