-- ==== Sys2Proof/Machine/KeySchedule.lean ====
section
/-! DEFINITION. Key material and the key schedule generator (spec/40_key_schedule.md). -/

namespace Sys2Proof.Machine

/-- A subkey set `sk[0..11]` (spec/10_state.md rule R33). -/
abbrev SubkeySet := Vector U8 12

/-- `keyWords(KEY)`: the first four byte pairs, big-endian (rule R100). -/
def keyWords (key : Vector U8 16) : Vector U16 4 :=
  #v[beWord key[0] key[1], beWord key[2] key[3], beWord key[4] key[5], beWord key[6] key[7]]

/-- `K64(KW)`, word 0 in the most significant 16 bits; rule R101's `wordsToU64`. -/
def k64 (kw : Vector U16 4) : U64 := ((kw[0] ++ kw[1]) ++ kw[2]) ++ kw[3]

/-- `u64ToWords(v)` of rule R101. -/
def u64ToWords (v : U64) : Vector U16 4 :=
  #v[v.extractLsb' 48 16, v.extractLsb' 32 16, v.extractLsb' 16 16, v.extractLsb' 0 16]

/-- The byte that slot `j` of round `r` reads: `(4r + (j mod 4)) mod 8` (rules R102 and R103). -/
def byteIndex (r j : Nat) : Nat := (4 * r + j % 4) % 8

/-- One slot of rule R102: rotate first, then extract. -/
def deriveSlot (r : Nat) (acc : SubkeySet × U64) (j : Nat) : SubkeySet × U64 :=
  let s := rotl64 acc.2 keyRotation
  (acc.1.setIfInBounds j (byteOf (byteIndex r j) s), s)

/-- One slot of rule R108: extract first, then rotate back. -/
def deriveSlotInv (r : Nat) (acc : SubkeySet × U64) (j : Nat) : SubkeySet × U64 :=
  (acc.1.setIfInBounds j (byteOf (byteIndex r j) acc.2), rotr64 acc.2 keyRotation)

/-- Twelve subkeys not yet filled in; every slot is written before the set is used. -/
def emptySubkeys : SubkeySet := #v[0, 0, 0, 0, 0, 0, 0, 0, 0, 0, 0, 0]

/-- `deriveSubkeys(r, s)` of rule R102: slot `j = 4g + i` for the groups `g` in order. -/
def deriveSubkeys (r : Nat) (s : U64) : SubkeySet × U64 :=
  (List.range subkeyCount).foldl (deriveSlot r) (emptySubkeys, s)

/-- `deriveSubkeysInv(r, s)` of rule R108: the slots in reverse order. -/
def deriveSubkeysInv (r : Nat) (s : U64) : SubkeySet × U64 :=
  (List.range subkeyCount).reverse.foldl (deriveSlotInv r) (emptySubkeys, s)

end Sys2Proof.Machine
end

