-- ==== Sys2Proof/Machine/Mixing.lean ====
section
/-! DEFINITION. The mixing function G (spec/41_mixing_g.md). -/

namespace Sys2Proof.Machine

/-- `G(w, k0, k1, k2, k3)` of rule R120: the XOR chain, with no substitution table (rule R121). -/
def mixG (w : U16) (k0 k1 k2 k3 : U8) : U16 :=
  let h := highByte w
  let l := lowByte w
  let a := l ^^^ k0 ^^^ h
  let b := a ^^^ k1 ^^^ l
  let c := b ^^^ k2 ^^^ a
  let d := c ^^^ k3 ^^^ b
  beWord c d

end Sys2Proof.Machine
end

