-- ==== Sys2Proof/Machine/RoundF.lean ====
section
/-! DEFINITION. The round function F (spec/42_round_f.md). -/

namespace Sys2Proof.Machine

/-- `F(w0, w1, sk)` of rule R130; every addition wraps modulo 2^16 (rule R132). -/
def roundF (w0 w1 : U16) (sk : SubkeySet) : U16 × U16 :=
  let t0 := mixG w0 sk[0] sk[1] sk[2] sk[3]
  let t1 := mixG w1 sk[4] sk[5] sk[6] sk[7]
  let t3 := beWord sk[8] sk[9]
  let t4 := beWord sk[10] sk[11]
  (weightOwn * t0 + weightOther * t1 + t3, weightOther * t0 + weightOwn * t1 + t4)

end Sys2Proof.Machine
end

