-- ==== Sys2Proof/Machine/Feistel.lean ====
section
/-! DEFINITION. Whitening, rounds and block functions of the Feistel engine, as pure functions (spec/43_feistel_engine.md rules
R141 to R149). -/

namespace Sys2Proof.Machine

/-- A block `B[0..3]`, or the working registers `R[0..3]`: four 16-bit words (spec/00_scope.md rule R17). -/
abbrev Block := Vector U16 4

/-- Input whitening, encrypt (rule R141). -/
def whitenInEnc (b kw : Block) : Block :=
  #v[b[0] ^^^ kw[0], b[1] ^^^ kw[1], b[2] ^^^ kw[2], b[3] ^^^ kw[3]]

/-- Input whitening, decrypt (rule R142). -/
def whitenInDec (b kw : Block) : Block :=
  #v[b[2] ^^^ kw[2], b[3] ^^^ kw[3], b[0] ^^^ kw[0], b[1] ^^^ kw[1]]

/-- Output whitening, encrypt: the permuted pairing of rule R146. -/
def whitenOutEnc (r kw : Block) : Block :=
  #v[r[2] ^^^ kw[0], r[3] ^^^ kw[1], r[0] ^^^ kw[2], r[1] ^^^ kw[3]]

/-- Output whitening, decrypt (rule R147). -/
def whitenOutDec (r kw : Block) : Block :=
  #v[r[0] ^^^ kw[0], r[1] ^^^ kw[1], r[2] ^^^ kw[2], r[3] ^^^ kw[3]]

/-- The register update of rule R143, all from the old values. -/
def mixForward (sk : SubkeySet) (r : Block) : Block :=
  let f := roundF r[0] r[1] sk
  #v[rotr16 (r[2] ^^^ f.1) roundRotation, rotl16 r[3] roundRotation ^^^ f.2, r[0], r[1]]

/-- The register update of rule R144, all from the old values. -/
def mixInverse (sk : SubkeySet) (r : Block) : Block :=
  let f := roundF r[2] r[3] sk
  #v[r[2], r[3], rotl16 r[0] roundRotation ^^^ f.1, rotr16 (r[1] ^^^ f.2) roundRotation]

/-- `roundFwd(r)` on the registers and `KS` (rule R143). -/
def roundFwd (n : Nat) (x : Block × U64) : Block × U64 :=
  let d := deriveSubkeys n x.2
  (mixForward d.1 x.1, d.2)

/-- `roundInv(r)` on the registers and `KS` (rule R144). -/
def roundInv (n : Nat) (x : Block × U64) : Block × U64 :=
  let d := deriveSubkeysInv n x.2
  (mixInverse d.1 x.1, d.2)

/-- The last round's index, 15. -/
def lastRound : Nat := roundCount - 1

/-- Round step number `n` of a decrypt-mode block runs `roundInv(15 - n)` (rule R148). -/
def decryptRound (n : Nat) (x : Block × U64) : Block × U64 := roundInv (lastRound - n) x

/-- `encryptBlock(P, KW)` of rule R149. -/
def encryptBlock (p kw : Block) : Block :=
  whitenOutEnc ((List.range roundCount).foldl (fun x n => roundFwd n x) (whitenInEnc p kw, k64 kw)).1 kw

/-- `decryptBlock(C, KW)` of rule R149. -/
def decryptBlock (c kw : Block) : Block :=
  whitenOutDec ((List.range roundCount).foldl (fun x n => decryptRound n x) (whitenInDec c kw, k64 kw)).1 kw

end Sys2Proof.Machine
end

