-- ==== Sys2Proof/Machine/Codec.lean ====
section
/-! DEFINITION. The block codec (spec/44_block_codec.md). -/

namespace Sys2Proof.Machine

/-- Byte `j` of a chunk of `len` bytes; trailing bytes are zero (rule R170). -/
def paddedByte (len j : Nat) (b : U8) : U8 := if j < len then b else 0x00

/-- `codecRead(DIN, len)` of rule R170, used for `len` from 1 to 8 (DESIGN CHOICE, log entry 16). -/
def codecRead (din : Vector U8 8) (len : Nat) : Block :=
  #v[beWord (paddedByte len 0 din[0]) (paddedByte len 1 din[1]),
     beWord (paddedByte len 2 din[2]) (paddedByte len 3 din[3]),
     beWord (paddedByte len 4 din[4]) (paddedByte len 5 din[5]),
     beWord (paddedByte len 6 din[6]) (paddedByte len 7 din[7])]

/-- `codecWrite(O)` of rule R175. -/
def codecWrite (o : Block) : Vector U8 8 :=
  #v[highByte o[0], lowByte o[0], highByte o[1], lowByte o[1],
     highByte o[2], lowByte o[2], highByte o[3], lowByte o[3]]

end Sys2Proof.Machine
end

