-- ==== Sys2Proof/Machine/State.lean ====
section
/-! DEFINITION. The machine's state: the tuple of spec/10_state.md rule R20 and, beside it, the two other agents of
spec/00_scope.md rule R16 as plain data (the host's remaining accesses, the order in which agents act) and the host's answers. -/

namespace Sys2Proof.Machine

/-- The engine state `PHASE` (rule R26). -/
inductive Phase where
  | idle
  | active
  | done
  deriving DecidableEq, Repr

/-- The direction `MODE` (rule R28). -/
inductive Mode where
  | encrypt
  | decrypt
  deriving DecidableEq, Repr

/-- The values of `ERR` (spec/60_exceptions.md rule R230). Codes 5 to 7 are never produced and have no name (DESIGN CHOICE, log entry 12). -/
inductive ErrCode where
  | none
  | busy
  | nokey
  | badlen
  | badcmd
  deriving DecidableEq, Repr

/-- The widths of a host access (spec/20_memory.md rule R63); only 32 bits is legal. -/
inductive Width where
  | w8
  | w16
  | w32
  | w64
  deriving DecidableEq, Repr

/-- One operation of a host program (spec/30_encoding.md rule R88), at a byte offset from `BASE`. The value of a write that is
not 32 bits wide is never looked at (DESIGN CHOICE, log entry 17). -/
inductive HostOp where
  | write (off : Nat) (width : Width) (v : U32)
  | read (off : Nat) (width : Width)
  | poll (off : Nat) (mask val : U32)
  deriving DecidableEq, Repr

/-- Whose atomic action comes next (rule R16): the host's, the engine's or the reset input's. The last two are configurations
the spec tells a model to refuse: a host access while reset is asserted (spec/70_reset_and_hazards.md rule R260) and an access
by a second host (spec/60_exceptions.md rule R243). -/
inductive Turn where
  | host
  | engine
  | reset
  | hostInReset
  | secondHost
  deriving DecidableEq, Repr

/-- What the host's access answers: the 32 bits of a completed read (spec/20_memory.md rule R66), or the bus error that ends an
illegal access (spec/60_exceptions.md rule R233). -/
inductive Reply where
  | data (v : U32)
  | busError (off : Nat)
  deriving DecidableEq, Repr

/-- Why a step stops with a fault. -/
inductive Fault where
  /-- A host access at an offset of 64 or more: the address is not decoded by this core (spec/20_memory.md rule R65). Raised by
  the host's turn. Safe: the machine stops where the platform would go on. -/
  | outsideWindow (off : Nat)
  deriving DecidableEq, Repr

/-- Why a step is refused. -/
inductive Refusal where
  /-- An instruction without a meaning in this model. Raised by no arm of `exec`: every command has its meaning. Safe. -/
  | notModelled (mnemonic : String)
  /-- A host access while reset is asserted, "outside this spec, and a model refuses them" (spec/70_reset_and_hazards.md rule
  R260). Raised by the turn `hostInReset`. Safe. -/
  | hostAccessInReset
  /-- Two hosts driving one instance (spec/60_exceptions.md rule R243). Raised by the turn `secondHost`. Safe. -/
  | secondHost
  deriving DecidableEq, Repr

/-- The state. The first twelve fields are exactly the elements of rule R20; the last three are the model's own (DESIGN CHOICE, log entry 1). -/
structure State where
  /-- `KEY[0..15]`, the raw key bytes in stream order (rule R21). -/
  key : Vector U8 16
  /-- `KW[0..3]`, the key words (rule R22). -/
  kw : Vector U16 4
  /-- `KS`, the rotating key state (rule R23). -/
  ks : U64
  /-- `KEYVALID` (rule R24). -/
  keyValid : Bool
  /-- `R[0..3]`, the working registers (rule R25). -/
  r : Vector U16 4
  /-- `PHASE` (rule R26). -/
  phase : Phase
  /-- `CNT`, the rounds completed, 0 to 16 in 5 bits (rule R27). -/
  cnt : BitVec 5
  /-- `MODE` (rule R28). -/
  mode : Mode
  /-- `DIN[0..7]`, the staged input block (rule R29). -/
  din : Vector U8 8
  /-- `DOUT[0..7]`, the last completed block's output (rule R30). -/
  dout : Vector U8 8
  /-- `EOS` (rule R31). -/
  eos : Bool
  /-- `ERR` (rule R32). -/
  err : ErrCode
  /-- The host's remaining accesses, in program order (spec/20_memory.md rule R72). -/
  host : List HostOp
  /-- The order in which the agents act from here on (spec/20_memory.md rule R72, spec/93_implementation_defined.md I16). -/
  sched : List Turn
  /-- The answers to the host's accesses so far, newest first (spec/70_reset_and_hazards.md rule R276). -/
  replies : List Reply
  deriving DecidableEq, Repr

/-- The machine right after reset: the values of rule R43, no host access waiting and no answer given (DESIGN CHOICE, log entry 1). -/
def State.reset : State where
  key := #v[0, 0, 0, 0, 0, 0, 0, 0, 0, 0, 0, 0, 0, 0, 0, 0]
  kw := #v[0, 0, 0, 0]
  ks := 0
  keyValid := false
  r := #v[0, 0, 0, 0]
  phase := .idle
  cnt := 0
  mode := .encrypt
  din := #v[0, 0, 0, 0, 0, 0, 0, 0]
  dout := #v[0, 0, 0, 0, 0, 0, 0, 0]
  eos := false
  err := .none
  host := []
  sched := []
  replies := []

end Sys2Proof.Machine
end

