-- ==== Sys2Proof/Machine/Flags.lean ====
section
/-! DEFINITION. The status bits, the core's only flags (spec/10_state.md rules R35 and R41). -/

namespace Sys2Proof.Machine

/-- The 3-bit code of an error (spec/60_exceptions.md rule R230). -/
def ErrCode.code : ErrCode → BitVec 3
  | .none => 0
  | .busy => 1
  | .nokey => 2
  | .badlen => 3
  | .badcmd => 4

/-- `MODE` as a bit: 0 Encrypt, 1 Decrypt (rule R28). -/
def Mode.bit : Mode → Bool
  | .encrypt => false
  | .decrypt => true

/-- STATUS.BUSY (rule R41). -/
def busyBit (s : State) : Bool := s.phase == .active

/-- STATUS.DONE (rule R41). -/
def doneBit (s : State) : Bool := s.phase == .done

/-- The value of STATUS (rule R41, spec/20_memory.md rule R66). -/
def statusWord (s : State) : U32 :=
  (s.cnt.setWidth 32 <<< 16) ||| (s.err.code.setWidth 32 <<< 8) ||| (bit32 s.eos <<< 4)
    ||| (bit32 s.mode.bit <<< 3) ||| (bit32 s.keyValid <<< 2)
    ||| (bit32 (doneBit s) <<< 1) ||| bit32 (busyBit s)

end Sys2Proof.Machine
end

