-- ==== Sys2Proof/Machine/Operands.lean ====
section
/-! DEFINITION. The operand forms: the LEN immediate of a command (spec/30_encoding.md rule R81) and the offset of a host access
(spec/10_state.md rule R36, spec/20_memory.md rules R63 to R65). -/

namespace Sys2Proof.Machine

/-- LEN as a byte count, zero-extended (rule R81). -/
def lenBytes (len : BitVec 4) : Nat := len.toNat

/-- LEN = 0 is the end-of-stream signal (rule R81). -/
def isEndOfStream (len : BitVec 4) : Bool := lenBytes len == 0

/-- LEN from 9 to 15 is illegal (rule R81). -/
def isBadLen (len : BitVec 4) : Bool := decide (blockBytes < lenBytes len)

/-- The register that an aligned offset inside the window names (rule R36). -/
inductive Slot where
  | key (n : Nat)
  | din (n : Nat)
  | dout (n : Nat)
  | cmd
  | status
  | reserved
  deriving DecidableEq, Repr

/-- The register map of rule R36; 0x28 to 0x3C are reserved. A misaligned offset, or one of 64 or more, is given a slot too, which no
host access reaches, because the bus checks come first (DESIGN CHOICE, log entry 24). -/
def slotOf (off : Nat) : Slot :=
  if off < 0x10 then .key (off / 4)
  else if off < 0x18 then .din ((off - 0x10) / 4)
  else if off < 0x20 then .dout ((off - 0x18) / 4)
  else if off < 0x24 then .cmd
  else if off < 0x28 then .status
  else .reserved

/-- What the bus makes of an access before any register is looked at (spec/60_exceptions.md rule R236). -/
inductive BusCheck where
  | outside
  | error
  | ok
  deriving DecidableEq, Repr

/-- An offset of 64 or more is not decoded by this core (rule R65), so it is asked first (DESIGN CHOICE, log entry 5); then the width (rule R63)
and the alignment (rule R64) must be right. -/
def busCheck (off : Nat) (width : Width) : BusCheck :=
  if windowBytes ≤ off then .outside
  else if width ≠ .w32 ∨ off % 4 ≠ 0 then .error
  else .ok

/-- The system address of a register (rule R36). -/
def addressOf (off : Nat) : Nat := Config.base + off

/-- The offset at which the core sees a system address, none below `BASE` (rule R36). -/
def offsetOf (addr : Nat) : Option Nat := if Config.base ≤ addr then some (addr - Config.base) else none

end Sys2Proof.Machine
end

