-- ==== Sys2Proof/Machine/Ops.lean ====
section
/-! DEFINITION. The named operations over the state: the register window, rejecting a command (this hardware's only exception),
acknowledging it, loading the key, accepting a block, reset, and the host's answers. -/

namespace Sys2Proof.Machine

/-- `reject(code)`, the one way a command's error is taken (spec/60_exceptions.md rule R232): ERR keeps the first code, and
nothing else changes. -/
def reject (code : ErrCode) (s : State) : State :=
  { s with err := if s.err = .none then code else s.err }

/-- The acknowledgement of an error, beside `reject` (rules R196 and R238). -/
def clearErr (s : State) : State := { s with err := .none }

/-- `check(c)` of rule R231, in its order: BADCMD, BUSY, BADLEN, NOKEY. -/
def check (c : Except Illegal Instr) (s : State) : ErrCode :=
  match c with
  | .error _ => .badcmd
  | .ok .nop => .none
  | .ok .clrerr => .none
  | .ok .keyload => if s.phase = .active then .busy else .none
  | .ok (.enc len) =>
    if s.phase = .active then .busy
    else if isBadLen len then .badlen
    else if isEndOfStream len then .none
    else if s.keyValid then .none else .nokey
  | .ok (.dec len) =>
    if s.phase = .active then .busy
    else if isBadLen len then .badlen
    else if isEndOfStream len then .none
    else if s.keyValid then .none else .nokey

/-- The outcome of a command whose check gave `code` and whose effect is `accepted` (spec/45_commands.md rule R190). -/
def acceptOrReject (code : ErrCode) (accepted s : State) : Host.Outcome State Fault Refusal :=
  if code = .none then .next accepted else .next (reject code s)

/-- KEYLOAD's effect (rule R192). -/
def loadKey (s : State) : State :=
  { s with kw := keyWords s.key, ks := k64 (keyWords s.key), keyValid := true }

/-- The end-of-stream branch of `acceptBlock` (rules R171 and R195). -/
def endStream (m : Mode) (s : State) : State :=
  { s with mode := m, eos := true, phase := .idle, cnt := 0 }

/-- Input whitening in the command's direction (spec/43_feistel_engine.md rules R141 and R142). -/
def whitenIn (m : Mode) (b kw : Block) : Block :=
  match m with
  | .encrypt => whitenInEnc b kw
  | .decrypt => whitenInDec b kw

/-- The block branch of `acceptBlock`: the source's state "Whitened" (rule R195). -/
def startBlock (m : Mode) (b : Block) (s : State) : State :=
  { s with mode := m, r := whitenIn m b s.kw, eos := false, cnt := 0, phase := .active }

/-- `acceptBlock(m, n)` of rule R195. -/
def acceptBlock (m : Mode) (len : BitVec 4) (s : State) : State :=
  if isEndOfStream len then endStream m s else startBlock m (codecRead s.din (lenBytes len)) s

/-- The host is given an answer. -/
def answer (rep : Reply) (s : State) : State := { s with replies := rep :: s.replies }

/-- The host's remaining accesses become `ops`. -/
def withHost (ops : List HostOp) (s : State) : State := { s with host := ops }

/-- The remaining order of turns becomes `ts`. -/
def withSched (ts : List Turn) (s : State) : State := { s with sched := ts }

/-- A write to KEYn (spec/10_state.md rule R37). -/
def writeKey (n : Nat) (v : U32) (s : State) : State := { s with key := setLanes s.key (4 * n) v }

/-- A write to DINn (rule R38). -/
def writeDin (n : Nat) (v : U32) (s : State) : State := { s with din := setLanes s.din (4 * n) v }

/-- The value of a register: what `RegRead` returns (spec/20_memory.md rule R66). -/
def readSlot (s : State) : Slot → U32
  | .key _ => 0
  | .din 0 => lanes s.din[0] s.din[1] s.din[2] s.din[3]
  | .din _ => lanes s.din[4] s.din[5] s.din[6] s.din[7]
  | .dout 0 => lanes s.dout[0] s.dout[1] s.dout[2] s.dout[3]
  | .dout _ => lanes s.dout[4] s.dout[5] s.dout[6] s.dout[7]
  | .cmd => 0
  | .status => statusWord s
  | .reserved => 0

/-- `RegRead(off)` for an aligned 32-bit access inside the window (rule R66). -/
def regRead (off : Nat) (s : State) : U32 := readSlot s (slotOf off)

/-- Reset of the core: every element of rule R20 takes its value of rule R43 (spec/70_reset_and_hazards.md rule R260). The other
agents' data stay: the reset input acts on the core. -/
def resetCore (s : State) : State :=
  { State.reset with host := s.host, sched := s.sched, replies := s.replies }

end Sys2Proof.Machine
end

