-- ==== Sys2Proof/Machine/BlockOps.lean ====
section
/-! DEFINITION. The commands ENC and DEC (spec/45_commands.md rules R193 to R195). -/

namespace Sys2Proof.Machine

/-- `ENC n`: `acceptBlock(Encrypt, n)` once the checks pass (rule R193). -/
def execEnc (len : BitVec 4) (s : State) : Host.Outcome State Fault Refusal :=
  acceptOrReject (check (.ok (.enc len)) s) (acceptBlock .encrypt len s) s

/-- `DEC n`: `acceptBlock(Decrypt, n)` once the checks pass (rule R194). -/
def execDec (len : BitVec 4) (s : State) : Host.Outcome State Fault Refusal :=
  acceptOrReject (check (.ok (.dec len)) s) (acceptBlock .decrypt len s) s

end Sys2Proof.Machine
end

