-- ==== Sys2Proof/Machine/Control.lean ====
section
/-! DEFINITION. The commands NOP, KEYLOAD and CLRERR (spec/45_commands.md rules R191, R192 and R196). -/

namespace Sys2Proof.Machine

/-- NOP: no effect, in every PHASE (rule R191). -/
def execNop (s : State) : Host.Outcome State Fault Refusal := acceptOrReject (check (.ok .nop) s) s s

/-- KEYLOAD: KW and KS from KEY, KEYVALID set; rejected with BUSY while a block is active (rule R192). -/
def execKeyload (s : State) : Host.Outcome State Fault Refusal :=
  acceptOrReject (check (.ok .keyload) s) (loadKey s) s

/-- CLRERR: ERR cleared, in every PHASE (rule R196). -/
def execClrerr (s : State) : Host.Outcome State Fault Refusal :=
  acceptOrReject (check (.ok .clrerr) s) (clearErr s) s

end Sys2Proof.Machine
end

