-- ==== Sys2Proof/Machine/Bus.lean ====
section
/-! DEFINITION. Host accesses: the command register, register writes, and the host's operations (spec/20_memory.md, rules R63 to
R69; spec/45_commands.md rule R190; spec/60_exceptions.md rules R233 and R236). -/

namespace Sys2Proof.Machine

/-- `executeCommand(v)` of rule R190: decode, then check and perform; an `Illegal` word is rejected with BADCMD. -/
def executeCommand (v : U32) (s : State) : Host.Outcome State Fault Refusal :=
  match decode v with
  | .ok i => exec i s
  | .error e => acceptOrReject (check (.error e) s) s s

/-- `RegWrite` to a register of the window (rule R67). -/
def writeSlot (v : U32) (s : State) : Slot → Host.Outcome State Fault Refusal
  | .key n => .next (writeKey n v s)
  | .din n => .next (writeDin n v s)
  | .dout _ => .next s
  | .cmd => executeCommand v s
  | .status => .next s
  | .reserved => .next s

/-- `RegWrite(off, v)` for an aligned 32-bit access inside the window (rule R67). -/
def regWrite (off : Nat) (v : U32) (s : State) : Host.Outcome State Fault Refusal := writeSlot v s (slotOf off)

/-- An access that has passed or failed the bus checks of rule R236: outside the window the core does not decode it (rule R65), an
illegal width or alignment answers BusError and changes nothing else (rule R233). -/
def checkedAccess (off : Nat) (width : Width) (failed ok : Host.Outcome State Fault Refusal) :
    Host.Outcome State Fault Refusal :=
  match busCheck off width with
  | .outside => .fault (.outsideWindow off)
  | .error => failed
  | .ok => ok

/-- A host write, already taken off the host's list. -/
def hostWrite (off : Nat) (width : Width) (v : U32) (s : State) : Host.Outcome State Fault Refusal :=
  checkedAccess off width (.next (answer (.busError off) s)) (regWrite off v s)

/-- A host read, already taken off the host's list. -/
def hostRead (off : Nat) (width : Width) (s : State) : Host.Outcome State Fault Refusal :=
  checkedAccess off width (.next (answer (.busError off) s)) (.next (answer (.data (regRead off s)) s))

/-- One read of a POLL, already taken off the host's list: it goes back to the front until `(result & mask) = val`
(spec/30_encoding.md rule R88; DEDUCED, log entry 6 for a POLL that answers BusError). -/
def hostPoll (off : Nat) (mask val : U32) (s : State) : Host.Outcome State Fault Refusal :=
  let again := withHost (.poll off mask val :: s.host) s
  checkedAccess off .w32 (.next (answer (.busError off) again))
    (.next (answer (.data (regRead off s)) (if regRead off s &&& mask = val then s else again)))

/-- One host operation. -/
def hostAccess (op : HostOp) (s : State) : Host.Outcome State Fault Refusal :=
  match op with
  | .write off width v => hostWrite off width v s
  | .read off width => hostRead off width s
  | .poll off mask val => hostPoll off mask val s

/-- The host's turn: its next access in program order (rule R72); with none left its turn passes (DESIGN CHOICE, log entry 3). -/
def hostTurn (s : State) : Host.Outcome State Fault Refusal :=
  match s.host with
  | [] => .next s
  | op :: ops => hostAccess op (withHost ops s)

end Sys2Proof.Machine
end

