-- ==== Sys2Proof/Machine/Engine.lean ====
section
/-! DEFINITION. The engine step (spec/43_feistel_engine.md rules R148 and R150). -/

namespace Sys2Proof.Machine

/-- The round that step number `n` of a block runs in a direction (rule R148). -/
def roundOf (m : Mode) (n : Nat) (x : Block × U64) : Block × U64 :=
  match m with
  | .encrypt => roundFwd n x
  | .decrypt => decryptRound n x

/-- Output whitening in a direction (rules R146 and R147). -/
def whitenOut (m : Mode) (r kw : Block) : Block :=
  match m with
  | .encrypt => whitenOutEnc r kw
  | .decrypt => whitenOutDec r kw

/-- A round engine step: the branch CNT < 16 of rule R150. -/
def roundStep (s : State) : State :=
  let x := roundOf s.mode s.cnt.toNat (s.r, s.ks)
  { s with r := x.1, ks := x.2, cnt := s.cnt + 1 }

/-- The output engine step: the terminal transition of rule R150. -/
def outputStep (s : State) : State :=
  { s with dout := codecWrite (whitenOut s.mode s.r s.kw), phase := .done }

/-- `engineStep()` of rule R150, which requires PHASE = Active (DESIGN CHOICE, log entry 10 for a CNT above 16). -/
def engineStep (s : State) : State :=
  if s.cnt.toNat < roundCount then roundStep s else outputStep s

/-- The engine's turn: its step is enabled exactly when PHASE = Active; otherwise its turn passes (DESIGN CHOICE, log entry 3). -/
def engineTurn (s : State) : State := if s.phase = .active then engineStep s else s

end Sys2Proof.Machine
end

