-- ==== Sys2Proof/Machine/Agents.lean ====
section
/-! DEFINITION. The agents and the order in which they act (spec/00_scope.md rule R16, spec/20_memory.md rule R72). -/

namespace Sys2Proof.Machine

/-- Whose turn it is: the first of the order in State; when the order is used up, an Active engine and otherwise the host, so that
an enabled engine step is never put off for ever (spec/70_reset_and_hazards.md rule R281; DESIGN CHOICE, log entry 2). -/
def nextTurn (s : State) : Turn :=
  match s.sched with
  | t :: _ => t
  | [] => if s.phase = .active then .engine else .host

/-- The turn is taken off the order. -/
def afterTurn (s : State) : State := withSched s.sched.tail s

/-- One agent's atomic action. -/
def takeTurn (t : Turn) (s : State) : Host.Outcome State Fault Refusal :=
  match t with
  | .host => hostTurn s
  | .engine => .next (engineTurn s)
  | .reset => .next (resetCore s)
  | .hostInReset => .refused .hostAccessInReset
  | .secondHost => .refused .secondHost

/-- The offset of CMD (spec/10_state.md rule R36). -/
def cmdOffset : Nat := 0x20

/-- The host's next access becomes the command word `v`, and the next turn the host's. -/
def withCommand (v : U32) (s : State) : State :=
  withSched (.host :: s.sched) (withHost (.write cmdOffset .w32 v :: s.host) s)

end Sys2Proof.Machine
end

