-- ==== Sys2Proof/Machine/Step.lean ====
section
/-! DEFINITION. One step: one atomic action of one agent (spec/00_scope.md rule R16). -/

namespace Sys2Proof.Machine

/-- One atomic action of the agent whose turn it is. -/
def step (s : State) : Host.Outcome State Fault Refusal := takeTurn (nextTurn s) (afterTurn s)

/-- `s` with the command of `nbits` bits `w` as the host's next access and the next turn the host's (DESIGN CHOICE, log entry 9). -/
def State.withFetchWord (s : State) (nbits w : Nat) : State := withCommand (tableWord nbits w) s

end Sys2Proof.Machine
end

