-- ==== Sys2Proof/Machine/Program.lean ====
section
/-! DEFINITION. Host programs: the pseudo-instructions (spec/30_encoding.md rules R88 and R89) and the commands of a stream
(spec/44_block_codec.md rule R174). Each is a list for the host's remaining accesses. -/

namespace Sys2Proof.Machine

/-- `W off, v`. -/
def writeReg (off : Nat) (v : U32) : HostOp := .write off .w32 v

/-- `R off`. -/
def readReg (off : Nat) : HostOp := .read off .w32

/-- `W CMD, <mnemonic>`. -/
def writeCommand (i : Instr) : HostOp := writeReg cmdOffset (encode i)

/-- `SETKEY a, b, c, d`. -/
def setKey (a b c d : U32) : List HostOp :=
  [writeReg 0x00 a, writeReg 0x04 b, writeReg 0x08 c, writeReg 0x0C d, writeCommand .keyload]

/-- `WAITIDLE`: wait until BUSY = 0. -/
def waitIdle : List HostOp := [.poll 0x24 0x00000001 0x00000000]

/-- `CRYPT op, n, x, y -> p, q`, `i` being the command `op n`. -/
def crypt (i : Instr) (x y : U32) : List HostOp :=
  [writeReg 0x10 x, writeReg 0x14 y, writeCommand i] ++ waitIdle ++ [readReg 0x18, readReg 0x1C]

/-- `ENDSTREAM`. -/
def endStreamOps : List HostOp := [writeCommand (.enc 0)]

/-- The LEN operands that a host issues for a stream of `n` bytes, in stream order: full blocks, a short one, the end (rule R174). -/
def streamLens (n : Nat) : List (BitVec 4) :=
  List.replicate (n / blockBytes) 8
    ++ (if n % blockBytes = 0 then [] else [BitVec.ofNat 4 (n % blockBytes)]) ++ [0]

end Sys2Proof.Machine
end

