-- ==== Sys2Proof/Safety.lean ====
section
/-! DEFINITION. What statements call a good state and a good run: the invariants of spec/10_state.md rule R45, quiescence and the end
of a run (spec/70_reset_and_hazards.md rule R276). -/

namespace Sys2Proof.Machine

/-- The key state of a block in progress after `n` of its rounds (spec/40_key_schedule.md rules R105, R106 and R109). -/
def blockKeyState (m : Mode) (n : Nat) (kw : Block) : U64 :=
  match m with
  | .encrypt => rotl64 (k64 kw) (subkeyCount * n)
  | .decrypt => rotr64 (k64 kw) (subkeyCount * n)

/-- The invariants of rule R45, with the key state of a block in progress that makes them inductive. -/
structure Inv (s : State) : Prop where
  /-- R45.1 -/
  active_keyed : s.phase = .active → s.keyValid = true ∧ s.cnt.toNat ≤ roundCount
  /-- R45.2 -/
  done_count : s.phase = .done → s.cnt = 16
  /-- R45.3 -/
  unkeyed : s.keyValid = false → s.phase ≠ .active ∧ s.ks = 0 ∧ s.kw = #v[0, 0, 0, 0]
  /-- R45.4, spec/43_feistel_engine.md rule R152 -/
  keyed_quiet : s.keyValid = true → s.phase ≠ .active → s.ks = k64 s.kw
  /-- What the rounds done so far have made of `KS` (rules R105 and R109) -/
  keyed_active : s.phase = .active → s.ks = blockKeyState s.mode s.cnt.toNat s.kw

/-- No engine step is enabled (rule R276). -/
abbrev Quiescent (s : State) : Prop := s.phase ≠ .active

/-- The host has made its last access and the core is quiescent (rule R276). -/
abbrev RunEnded (s : State) : Prop := s.host = [] ∧ Quiescent s

/-- `n` turns of the engine with no other action between them. -/
def engineTurns : Nat → State → State
  | 0, s => s
  | n + 1, s => engineTurns n (engineTurn s)

/-- The turns of `ts` one after another, stopping at the first that faults or is refused: one interleaving of the agents
(spec/20_memory.md rule R72). -/
def runTurns : List Turn → State → Host.Outcome State Fault Refusal
  | [], s => .next s
  | x :: ts, s =>
    match takeTurn x s with
    | .next t => runTurns ts t
    | .fault f => .fault f
    | .refused f => .refused f

/-- The direction's block function: `encryptBlock` or `decryptBlock` (spec/43_feistel_engine.md rule R149). -/
def blockFunction (m : Mode) (b kw : Block) : Block :=
  match m with
  | .encrypt => encryptBlock b kw
  | .decrypt => decryptBlock b kw

/-- Two states that differ in nothing but `KEY[8..15]` (spec/90_conflicts.md C1). -/
def SameButKeyTail (s t : State) : Prop :=
  t = { s with key := t.key } ∧ ∀ (j : Nat) (h : j < 8), t.key[j] = s.key[j]

end Sys2Proof.Machine
end

