-- ==== Sys2Proof/Certificates/Slice0/Obligations.lean ====
section
/-! DEFINITION. The statements about the model, each from the rules of spec/ that its docstring names. -/

open Sys2Proof Sys2Proof.Machine

/-! ### Encoding -/

/-- R80, R84, R87: the decoder reads exactly the encoder's words: a word decodes to a command when, and only when, it is that
command's word. -/
def Obligations.DecodeExactlyEncodings : Prop :=
  ∀ (v : U32) (i : Instr), decode v = .ok i ↔ v = encode i

/-- R83: the opcode map, row by row: `v` decodes to a row's command exactly when `v & mask = match`, LEN is `v[11:8]`, and a word
that selects no row is Illegal and rejected with BADCMD. -/
def Obligations.DecodeFollowsOpcodeMap : Prop :=
  ∀ v : U32,
    (decode v = .ok .nop ↔ v &&& 0xFFFFFFFF = 0x00000000) ∧
    (decode v = .ok .keyload ↔ v &&& 0xFFFFFFFF = 0x00000001) ∧
    (∀ len : BitVec 4, decode v = .ok (.enc len) ↔ v &&& 0xFFFFF0FF = 0x00000002 ∧ len = v.extractLsb' 8 4) ∧
    (∀ len : BitVec 4, decode v = .ok (.dec len) ↔ v &&& 0xFFFFF0FF = 0x00000003 ∧ len = v.extractLsb' 8 4) ∧
    (decode v = .ok .clrerr ↔ v &&& 0xFFFFFFFF = 0x00000004) ∧
    ((∃ e, decode v = .error e) ↔
      v &&& 0xFFFFFFFF ≠ 0x00000000 ∧ v &&& 0xFFFFFFFF ≠ 0x00000001 ∧ v &&& 0xFFFFF0FF ≠ 0x00000002 ∧
      v &&& 0xFFFFF0FF ≠ 0x00000003 ∧ v &&& 0xFFFFFFFF ≠ 0x00000004) ∧
    ∀ e, decode v = .error e → ∀ s : State,
      executeCommand v s = .next { s with err := if s.err = .none then .badcmd else s.err }

/-- R87 and vectors V70 to V83: words written out from the encoding decode to the commands they stand for. -/
def Obligations.SampleWordsDecode : Prop :=
  decode 0x00000000 = .ok .nop ∧ decode 0x00000001 = .ok .keyload ∧ decode 0x00000802 = .ok (.enc 8) ∧
  decode 0x00000503 = .ok (.dec 5) ∧ decode 0x00000902 = .ok (.enc 9) ∧ decode 0x00000004 = .ok .clrerr ∧
  decode 0x00000005 = .error .reservedOp ∧ decode 0x00000101 = .error .lenNotZero ∧
  decode 0x00001002 = .error .rsvdNotZero

/-- R82: a word with RSVD not 0, or with LEN not 0 and OP other than ENC and DEC, is Illegal and rejected with BADCMD. -/
def Obligations.MalformedWordsRejected : Prop :=
  ∀ (v : U32) (s : State),
    (v.extractLsb' 12 20 ≠ 0 ∨
      (v.extractLsb' 8 4 ≠ 0 ∧ v.extractLsb' 0 8 ≠ 0x02 ∧ v.extractLsb' 0 8 ≠ 0x03)) →
    (∃ e, decode v = .error e) ∧
    executeCommand v s = .next { s with err := if s.err = .none then .badcmd else s.err }

/-- R85: a reserved OP, 0x05 to 0xFF, is Illegal, and its only effect is BADCMD in ERR. -/
def Obligations.ReservedOpsRejected : Prop :=
  ∀ (v : U32) (s : State), 0x05 ≤ (v.extractLsb' 0 8).toNat →
    (∃ e, decode v = .error e) ∧
    executeCommand v s = .next { s with err := if s.err = .none then .badcmd else s.err }

/-! ### Commands -/

/-- R191: NOP changes nothing, in every PHASE; an OP of 0 with any other bit set is rejected with BADCMD. -/
def Obligations.NopHasNoEffect : Prop :=
  ∀ s : State,
    exec .nop s = .next s ∧ executeCommand 0x00000000 s = .next s ∧
    ∀ v : U32, v.extractLsb' 0 8 = 0x00 → v ≠ 0x00000000 →
      executeCommand v s = .next { s with err := if s.err = .none then .badcmd else s.err }

/-- R192: outside a block KEYLOAD loads KW and KS from KEY and sets KEYVALID, and nothing else; during a block it is rejected with
BUSY; an OP of 1 with any other bit set is rejected with BADCMD. -/
def Obligations.KeyloadLoadsKey : Prop :=
  ∀ s : State,
    (s.phase ≠ .active →
      exec .keyload s = .next { s with
        kw := #v[s.key[0] ++ s.key[1], s.key[2] ++ s.key[3], s.key[4] ++ s.key[5], s.key[6] ++ s.key[7]]
        ks := s.key[0] ++ s.key[1] ++ s.key[2] ++ s.key[3] ++ s.key[4] ++ s.key[5] ++ s.key[6] ++ s.key[7]
        keyValid := true }) ∧
    (s.phase = .active → exec .keyload s = .next { s with err := if s.err = .none then .busy else s.err }) ∧
    executeCommand 0x00000001 s = exec .keyload s ∧
    ∀ v : U32, v.extractLsb' 0 8 = 0x01 → v ≠ 0x00000001 →
      executeCommand v s = .next { s with err := if s.err = .none then .badcmd else s.err }

/-- R195: what ENC and DEC do once their checks have passed: end of stream for LEN 0, and for LEN 1 to 8 the codec's block,
whitened in the command's direction, with MODE, EOS, CNT and PHASE written; everything else unchanged. -/
def Obligations.AcceptBlockWritesState : Prop :=
  ∀ (s : State) (len : BitVec 4), s.phase ≠ .active →
    (len = 0 →
      exec (.enc len) s = .next { s with mode := .encrypt, eos := true, phase := .idle, cnt := 0 } ∧
      exec (.dec len) s = .next { s with mode := .decrypt, eos := true, phase := .idle, cnt := 0 }) ∧
    (1 ≤ len.toNat → len.toNat ≤ 8 → s.keyValid = true →
      exec (.enc len) s = .next { s with
        mode := .encrypt, r := whitenInEnc (codecRead s.din len.toNat) s.kw, eos := false, cnt := 0, phase := .active } ∧
      exec (.dec len) s = .next { s with
        mode := .decrypt, r := whitenInDec (codecRead s.din len.toNat) s.kw, eos := false, cnt := 0, phase := .active })

/-- R231: the checks of every command in their order: BADCMD for Illegal, nothing for NOP and CLRERR, then BUSY, BADLEN and
NOKEY, each with its code in ERR if ERR was 0. -/
def Obligations.ChecksInPriorityOrder : Prop :=
  ∀ s : State,
    (∀ (v : U32) (e : Illegal), decode v = .error e →
      executeCommand v s = .next { s with err := if s.err = .none then .badcmd else s.err }) ∧
    (check (.ok .nop) s = .none ∧ check (.ok .clrerr) s = .none) ∧
    (s.phase = .active →
      exec .keyload s = .next { s with err := if s.err = .none then .busy else s.err } ∧
      ∀ len, exec (.enc len) s = .next { s with err := if s.err = .none then .busy else s.err } ∧
        exec (.dec len) s = .next { s with err := if s.err = .none then .busy else s.err }) ∧
    (s.phase ≠ .active →
      check (.ok .keyload) s = .none ∧
      ∀ len : BitVec 4,
        (8 < len.toNat →
          exec (.enc len) s = .next { s with err := if s.err = .none then .badlen else s.err } ∧
          exec (.dec len) s = .next { s with err := if s.err = .none then .badlen else s.err }) ∧
        (len = 0 → check (.ok (.enc len)) s = .none ∧ check (.ok (.dec len)) s = .none) ∧
        (1 ≤ len.toNat → len.toNat ≤ 8 → s.keyValid = false →
          exec (.enc len) s = .next { s with err := if s.err = .none then .nokey else s.err } ∧
          exec (.dec len) s = .next { s with err := if s.err = .none then .nokey else s.err }) ∧
        (1 ≤ len.toNat → len.toNat ≤ 8 → s.keyValid = true →
          check (.ok (.enc len)) s = .none ∧ check (.ok (.dec len)) s = .none))

/-- R232: a command whose check gives a code other than 0 changes ERR if ERR was 0, and nothing else. -/
def Obligations.RejectionOnlySetsErr : Prop :=
  ∀ (v : U32) (s : State), check (decode v) s ≠ .none →
    executeCommand v s = .next { s with err := if s.err = .none then check (decode v) s else s.err }

/-- R196: CLRERR sets ERR to 0 and changes nothing else, in every PHASE; an OP of 4 with any other bit set is rejected with BADCMD. -/
def Obligations.ClrerrClearsErr : Prop :=
  ∀ s : State,
    exec .clrerr s = .next { s with err := .none } ∧ executeCommand 0x00000004 s = .next { s with err := .none } ∧
    ∀ v : U32, v.extractLsb' 0 8 = 0x04 → v ≠ 0x00000004 →
      executeCommand v s = .next { s with err := if s.err = .none then .badcmd else s.err }

/-- R190, R197: the frame of every command. KEY, DIN, DOUT and the agents' data never change; KW, KS and KEYVALID change by KEYLOAD
alone; R, MODE, PHASE, CNT and EOS by ENC and DEC alone; an accepted command other than CLRERR leaves ERR; and with ERR 0 before,
ERR is 0 after exactly when the command was accepted. -/
def Obligations.CommandFrame : Prop :=
  ∀ (i : Instr) (s t : State), exec i s = .next t →
    (t.key = s.key ∧ t.din = s.din ∧ t.dout = s.dout ∧ t.host = s.host ∧ t.sched = s.sched ∧ t.replies = s.replies) ∧
    (i ≠ .keyload → t.kw = s.kw ∧ t.ks = s.ks ∧ t.keyValid = s.keyValid) ∧
    ((∀ len, i ≠ .enc len ∧ i ≠ .dec len) →
      t.r = s.r ∧ t.mode = s.mode ∧ t.phase = s.phase ∧ t.cnt = s.cnt ∧ t.eos = s.eos) ∧
    (i ≠ .clrerr → check (.ok i) s = .none → t.err = s.err) ∧
    (s.err = .none → (t.err = .none ↔ check (.ok i) s = .none))

/-- R190, R153: no command word, in any state, stops the machine. -/
def Obligations.EveryCommandWordCompletes : Prop :=
  ∀ (v : U32) (s : State), ∃ t, executeCommand v s = .next t

/-! ### The register window -/

/-- R66: the value of every register offset, and that a read changes nothing but the host's own data. That `regRead` is 0 at the offsets
from 0x28 that are misaligned or outside the window, where no host read reaches it, is the model's choice (log entry 24). -/
def Obligations.RegReadFollowsMap : Prop :=
  ∀ s : State,
    (∀ off, off = 0x00 ∨ off = 0x04 ∨ off = 0x08 ∨ off = 0x0C → regRead off s = 0) ∧
    regRead 0x10 s = s.din[0] ++ s.din[1] ++ s.din[2] ++ s.din[3] ∧
    regRead 0x14 s = s.din[4] ++ s.din[5] ++ s.din[6] ++ s.din[7] ∧
    regRead 0x18 s = s.dout[0] ++ s.dout[1] ++ s.dout[2] ++ s.dout[3] ∧
    regRead 0x1C s = s.dout[4] ++ s.dout[5] ++ s.dout[6] ++ s.dout[7] ∧
    regRead 0x20 s = 0 ∧
    regRead 0x24 s = (s.cnt.setWidth 32 <<< 16) ||| (s.err.code.setWidth 32 <<< 8)
      ||| ((BitVec.ofBool s.eos).setWidth 32 <<< 4)
      ||| ((BitVec.ofBool (s.mode == .decrypt)).setWidth 32 <<< 3)
      ||| ((BitVec.ofBool s.keyValid).setWidth 32 <<< 2)
      ||| ((BitVec.ofBool (s.phase == .done)).setWidth 32 <<< 1)
      ||| (BitVec.ofBool (s.phase == .active)).setWidth 32 ∧
    (∀ off, 0x28 ≤ off → regRead off s = 0) ∧
    ∀ off rest, off < 64 → off % 4 = 0 → s.host = .read off .w32 :: rest →
      hostTurn s = .next { s with host := rest, replies := .data (regRead off s) :: s.replies }

/-- R41: the fields of STATUS, the reserved bits 0, STATUS 0 after reset, and a write to it ignored. -/
def Obligations.StatusFields : Prop :=
  ∀ s : State,
    ((regRead 0x24 s).getLsbD 0 = true ↔ s.phase = .active) ∧
    ((regRead 0x24 s).getLsbD 1 = true ↔ s.phase = .done) ∧
    ((regRead 0x24 s).getLsbD 2 = s.keyValid) ∧
    ((regRead 0x24 s).getLsbD 3 = true ↔ s.mode = .decrypt) ∧
    ((regRead 0x24 s).getLsbD 4 = s.eos) ∧
    ((regRead 0x24 s).extractLsb' 5 3 = 0) ∧
    ((regRead 0x24 s).extractLsb' 8 3 = s.err.code) ∧
    ((regRead 0x24 s).extractLsb' 11 5 = 0) ∧
    ((regRead 0x24 s).extractLsb' 16 5 = s.cnt) ∧
    ((regRead 0x24 s).extractLsb' 21 11 = 0) ∧
    regRead 0x24 State.reset = 0 ∧
    ∀ v, regWrite 0x24 v s = .next s

/-- R37: a write to KEYn puts the four lanes into KEY[4n..4n+3], most significant first, and changes nothing else, in every PHASE;
KEYn reads 0. -/
def Obligations.KeyWriteSetsLanes : Prop :=
  ∀ (s : State) (n : Nat) (v : U32), n < 4 →
    ∃ t, regWrite (4 * n) v s = .next t ∧ t = { s with key := t.key } ∧
      (∀ (j : Nat) (h : j < 16), t.key[j] =
        if j / 4 = n then v.extractLsb' (8 * (3 - j % 4)) 8 else s.key[j]) ∧
      regRead (4 * n) t = 0

/-- R38: a write to DINn puts the four lanes into DIN[4n..4n+3] and changes nothing else, in every PHASE; a read returns the last
value written. -/
def Obligations.DinWriteThenRead : Prop :=
  ∀ (s : State) (n : Nat) (v : U32), n < 2 →
    ∃ t, regWrite (0x10 + 4 * n) v s = .next t ∧ t = { s with din := t.din } ∧
      (∀ (j : Nat) (h : j < 8), t.din[j] =
        if j / 4 = n then v.extractLsb' (8 * (3 - j % 4)) 8 else s.din[j]) ∧
      regRead (0x10 + 4 * n) t = v ∧ regRead (0x10 + 4 * n) State.reset = 0

/-- R39: DOUTn reads DOUT[4n..4n+3], a write to it is ignored, and after an output step DOUT0 = O[0] || O[1] and
DOUT1 = O[2] || O[3]. -/
def Obligations.DoutReadsOutputWords : Prop :=
  ∀ (s : State) (v : U32),
    regWrite 0x18 v s = .next s ∧ regWrite 0x1C v s = .next s ∧
    regRead 0x18 s = s.dout[0] ++ s.dout[1] ++ s.dout[2] ++ s.dout[3] ∧
    regRead 0x1C s = s.dout[4] ++ s.dout[5] ++ s.dout[6] ++ s.dout[7] ∧
    ∀ o : Block, o = whitenOut s.mode s.r s.kw →
      regRead 0x18 (outputStep s) = o[0] ++ o[1] ∧ regRead 0x1C (outputStep s) = o[2] ++ o[3]

/-- R42: a host read of a reserved offset is answered with 0, a host write there is ignored, and neither changes the core. -/
def Obligations.ReservedOffsetsInert : Prop :=
  ∀ (s : State) (off : Nat) (v : U32) (rest : List HostOp), 0x28 ≤ off → off ≤ 0x3C → off % 4 = 0 →
    (s.host = .read off .w32 :: rest → hostTurn s = .next { s with host := rest, replies := .data 0 :: s.replies }) ∧
    (s.host = .write off .w32 v :: rest → hostTurn s = .next { s with host := rest })

/-- R63, R64, R233: an access in the window that is not 32 bits wide or not aligned is answered with BusError(off) and changes nothing
in the core. That the machine goes on with the host's next access is the model's reading (DEDUCED, log entry 4). -/
def Obligations.BusErrorChangesNothing : Prop :=
  ∀ (s : State) (off : Nat) (w : Width) (v : U32) (rest : List HostOp), off < 64 → (w ≠ .w32 ∨ off % 4 ≠ 0) →
    (s.host = .write off w v :: rest ∨ s.host = .read off w :: rest) →
    hostTurn s = .next { s with host := rest, replies := .busError off :: s.replies }

/-- R65 (the stop is the model's, log entry 5): an access at an offset of 64 or more is not decoded by this core; the model stops
with a fault that names the offset. -/
def Obligations.OutsideWindowFaults : Prop :=
  ∀ (s : State) (off : Nat) (w : Width) (v mask val : U32) (rest : List HostOp), 64 ≤ off →
    (s.host = .write off w v :: rest ∨ s.host = .read off w :: rest ∨ s.host = .poll off mask val :: rest) →
    hostTurn s = .fault (.outsideWindow off)

/-- R40: a 32-bit write to CMD is one command, executed within that write; a read of CMD returns 0 and issues no command. -/
def Obligations.CmdWriteIsOneCommand : Prop :=
  ∀ (s : State) (v : U32) (rest : List HostOp),
    (s.host = .write 0x20 .w32 v :: rest → hostTurn s = executeCommand v { s with host := rest }) ∧
    (s.host = .read 0x20 .w32 :: rest → hostTurn s = .next { s with host := rest, replies := .data 0 :: s.replies })

/-- R88: one read of a POLL: its value is recorded, and the POLL stays the host's next operation until the masked value is right. A
misaligned POLL is answered with BusError, after which the machine goes on (DEDUCED, log entry 4), and stays too (DEDUCED, log entry 6). -/
def Obligations.PollRepeatsUntilEqual : Prop :=
  ∀ (s : State) (off : Nat) (mask val : U32) (rest : List HostOp), off < 64 → s.host = .poll off mask val :: rest →
    (off % 4 = 0 → regRead off s &&& mask = val →
      hostTurn s = .next { s with host := rest, replies := .data (regRead off s) :: s.replies }) ∧
    (off % 4 = 0 → regRead off s &&& mask ≠ val →
      hostTurn s = .next { s with replies := .data (regRead off s) :: s.replies }) ∧
    (off % 4 ≠ 0 → hostTurn s = .next { s with replies := .busError off :: s.replies })

/-- R16, R72, R190: when the turn is the host's and its next access writes a word to CMD that decodes to `i`, the step is `exec i`
on the state with that access and that turn taken off. -/
def Obligations.StepRunsDecodedCommand : Prop :=
  ∀ (s : State) (v : U32) (i : Instr) (rest : List HostOp),
    nextTurn s = .host → s.host = .write 0x20 .w32 v :: rest → decode v = .ok i →
    step s = exec i { s with host := rest, sched := s.sched.tail }

/-- R80, R190: a command's own word, placed as the host's next access, is executed by the very next step, on exactly the state it
was placed in. -/
def Obligations.FetchedWordIsExecuted : Prop :=
  ∀ (s : State) (i : Instr), step (s.withFetchWord 32 (encode i).toNat) = exec i s

/-- R44: what the host reads depends on DIN, DOUT and the STATUS fields alone; KEY, KW, KS and R cannot be read. At an offset that no host
read reaches, `regRead` has the value of log entry 24. -/
def Obligations.HiddenStateUnreadable : Prop :=
  ∀ (s t : State) (off : Nat),
    s.din = t.din → s.dout = t.dout → s.phase = t.phase → s.cnt = t.cnt → s.mode = t.mode →
    s.keyValid = t.keyValid → s.eos = t.eos → s.err = t.err → regRead off s = regRead off t

/-- R37, R100 and conflict C1: KEY[8..15] have no effect: two states that differ only there step to states that differ only there. -/
def Obligations.KeyTailHasNoEffect : Prop :=
  ∀ s t : State, SameButKeyTail s t →
    (∀ s', step s = .next s' → ∃ t', step t = .next t' ∧ SameButKeyTail s' t') ∧
    (∀ f, step s = .fault f → step t = .fault f) ∧ (∀ f, step s = .refused f → step t = .refused f)

/-! ### The engine -/

/-- R148: round step number n runs roundFwd(n) in encrypt mode and roundInv(15 - n) in decrypt mode; it writes R, KS and CNT and
nothing else. -/
def Obligations.EngineRoundOrder : Prop :=
  ∀ s : State, s.phase = .active → s.cnt.toNat < 16 →
    (s.mode = .encrypt →
      takeTurn .engine s = .next { s with
        r := (roundFwd s.cnt.toNat (s.r, s.ks)).1, ks := (roundFwd s.cnt.toNat (s.r, s.ks)).2, cnt := s.cnt + 1 }) ∧
    (s.mode = .decrypt →
      takeTurn .engine s = .next { s with
        r := (roundInv (15 - s.cnt.toNat) (s.r, s.ks)).1, ks := (roundInv (15 - s.cnt.toNat) (s.r, s.ks)).2,
        cnt := s.cnt + 1 })

/-- R146, R147, R150, R175: at CNT = 16 the engine step writes the whitened registers, big-endian, to DOUT and PHASE becomes Done;
outside Active the engine does nothing. -/
def Obligations.EngineOutputStep : Prop :=
  ∀ s : State,
    (s.phase = .active → s.cnt = 16 → s.mode = .encrypt →
      takeTurn .engine s = .next { s with
        dout := codecWrite #v[s.r[2] ^^^ s.kw[0], s.r[3] ^^^ s.kw[1], s.r[0] ^^^ s.kw[2], s.r[1] ^^^ s.kw[3]]
        phase := .done }) ∧
    (s.phase = .active → s.cnt = 16 → s.mode = .decrypt →
      takeTurn .engine s = .next { s with
        dout := codecWrite #v[s.r[0] ^^^ s.kw[0], s.r[1] ^^^ s.kw[1], s.r[2] ^^^ s.kw[2], s.r[3] ^^^ s.kw[3]]
        phase := .done }) ∧
    (s.phase ≠ .active → takeTurn .engine s = .next s)

/-- R150, R281: a whitened block stays Active for 16 engine steps, CNT counting them, and is Done after the 17th, with no step
enabled from then on. -/
def Obligations.BlockTakesSeventeenSteps : Prop :=
  ∀ s : State, s.phase = .active → s.cnt = 0 →
    (∀ n, n ≤ 16 → (engineTurns n s).phase = .active ∧ (engineTurns n s).cnt.toNat = n) ∧
    (∀ k, engineTurns (17 + k) s = engineTurns 17 s) ∧
    (engineTurns 17 s).phase = .done ∧ (engineTurns 17 s).cnt = 16

/-- R150: an engine step never reads KEY or DIN and never writes them. -/
def Obligations.EngineIgnoresKeyAndDin : Prop :=
  ∀ (s : State) (k : Vector U8 16) (d : Vector U8 8),
    engineTurn { s with key := k, din := d } = { engineTurn s with key := k, din := d }

/-- R232, R270, R272: while a block is active, no access of the host changes anything the block depends on or its result. -/
def Obligations.HostCannotDisturbBlock : Prop :=
  ∀ s t : State, s.phase = .active → takeTurn .host s = .next t →
    t.phase = .active ∧ t.r = s.r ∧ t.ks = s.ks ∧ t.kw = s.kw ∧ t.keyValid = s.keyValid ∧ t.cnt = s.cnt ∧
    t.mode = s.mode ∧ t.dout = s.dout ∧ t.eos = s.eos

/-- R68, R72, R149, R272: whatever the host does between the engine's steps, a block accepted with KS = K64(KW) ends with its block
function's output in DOUT: at the 17th engine step of any interleaving of host and engine. -/
def Obligations.BlockResultUnderAnyInterleaving : Prop :=
  ∀ (s t : State) (b : Block) (ts : List Turn),
    s.phase = .active → s.cnt = 0 → s.ks = k64 s.kw → s.r = whitenIn s.mode b s.kw →
    (∀ x ∈ ts, x = .host ∨ x = .engine) → ts.count .engine = 16 → runTurns (ts ++ [.engine]) s = .next t →
    t.phase = .done ∧ t.cnt = 16 ∧ t.mode = s.mode ∧ t.kw = s.kw ∧ t.ks = k64 s.kw ∧
    t.dout = codecWrite (blockFunction s.mode b s.kw)

/-- R193, R194: an accepted ENC or DEC with LEN 1 to 8, followed by 17 engine steps, leaves DONE, CNT = 16, KS = K64(KW) and in
DOUT the block function of the padded input. -/
def Obligations.BlockOperationComputesBlockFunction : Prop :=
  ∀ (s : State) (len : BitVec 4), s.phase ≠ .active → s.keyValid = true → s.ks = k64 s.kw →
    1 ≤ len.toNat → len.toNat ≤ 8 →
    (∃ t, exec (.enc len) s = .next t ∧
      (engineTurns 17 t).dout = codecWrite (encryptBlock (codecRead s.din len.toNat) s.kw) ∧
      (engineTurns 17 t).phase = .done ∧ (engineTurns 17 t).cnt = 16 ∧ (engineTurns 17 t).mode = .encrypt ∧
      (engineTurns 17 t).ks = k64 s.kw ∧ (engineTurns 17 t).kw = s.kw) ∧
    (∃ t, exec (.dec len) s = .next t ∧
      (engineTurns 17 t).dout = codecWrite (decryptBlock (codecRead s.din len.toNat) s.kw) ∧
      (engineTurns 17 t).phase = .done ∧ (engineTurns 17 t).cnt = 16 ∧ (engineTurns 17 t).mode = .decrypt ∧
      (engineTurns 17 t).ks = k64 s.kw ∧ (engineTurns 17 t).kw = s.kw)

/-! ### The datapath -/

/-- R100: key word i is the big-endian pair of key bytes 2i and 2i+1. -/
def Obligations.KeyWordsAreBytePairs : Prop :=
  ∀ (key : Vector U8 16) (i : Nat) (h : i < 4), (keyWords key)[i] = key[2 * i] ++ key[2 * i + 1]

/-- R101: K64 and u64ToWords, word 0 in the most significant 16 bits, and packing and unpacking are inverse to each other. -/
def Obligations.KeyStatePackingRoundTrip : Prop :=
  (∀ v : U64, k64 (u64ToWords v) = v ∧
    u64ToWords v = #v[v.extractLsb' 48 16, v.extractLsb' 32 16, v.extractLsb' 16 16, v.extractLsb' 0 16]) ∧
  (∀ kw : Block, u64ToWords (k64 kw) = kw ∧ k64 kw = kw[0] ++ kw[1] ++ kw[2] ++ kw[3])

/-- R102, R103, R105, R107: slot j of round r is byte (4r + (j mod 4)) mod 8 of the state rotated left by j + 1, and the state
advances by 12 rotations. -/
def Obligations.SubkeySlotsClosedForm : Prop :=
  ∀ (r : Nat) (s : U64), r < 16 →
    (∀ (j : Nat) (h : j < 12), (deriveSubkeys r s).1[j] =
      ((s.rotateLeft (j + 1)) >>> (8 * ((4 * r + j % 4) % 8))).setWidth 8) ∧
    (deriveSubkeys r s).2 = s.rotateLeft 12

/-- R108, R109: the inverse derivation, run from the state after a round, gives the round's subkeys and the state before it. -/
def Obligations.SubkeyInverseLaw : Prop :=
  ∀ (r : Nat) (s : U64), r < 16 → deriveSubkeysInv r (deriveSubkeys r s).2 = ((deriveSubkeys r s).1, s)

/-- R106: the 16 rounds of a block bring the key state back to where it was. -/
def Obligations.BlockRestoresKeyState : Prop :=
  ∀ s : U64, (List.range 16).foldl (fun k r => (deriveSubkeys r k).2) s = s

/-- R122: the closed form of G. -/
def Obligations.MixingClosedForm : Prop :=
  ∀ (w : U16) (k0 k1 k2 k3 : U8),
    mixG w k0 k1 k2 k3 =
      (w.extractLsb' 0 8 ^^^ k1 ^^^ k2) ++ (w.extractLsb' 0 8 ^^^ w.extractLsb' 8 8 ^^^ k0 ^^^ k2 ^^^ k3)

/-- R123: G is a bijection for fixed subkeys, and affine over GF(2). -/
def Obligations.MixingBijectiveAndAffine : Prop :=
  ∀ k0 k1 k2 k3 : U8,
    Function.Bijective (fun w : U16 => mixG w k0 k1 k2 k3) ∧
    ∀ w1 w2 : U16, mixG w1 k0 k1 k2 k3 ^^^ mixG w2 k0 k1 k2 k3 = mixG (w1 ^^^ w2) 0 0 0 0

/-- R130, R132: F's two outputs as sums modulo 2^16. -/
def Obligations.RoundFunctionModularSums : Prop :=
  ∀ (w0 w1 : U16) (sk : SubkeySet),
    (roundF w0 w1 sk).1.toNat =
      ((mixG w0 sk[0] sk[1] sk[2] sk[3]).toNat + 2 * (mixG w1 sk[4] sk[5] sk[6] sk[7]).toNat
        + (sk[8] ++ sk[9]).toNat) % 65536 ∧
    (roundF w0 w1 sk).2.toNat =
      (2 * (mixG w0 sk[0] sk[1] sk[2] sk[3]).toNat + (mixG w1 sk[4] sk[5] sk[6] sk[7]).toNat
        + (sk[10] ++ sk[11]).toNat) % 65536

/-- R143, R144: the register updates of a round and of its inverse. -/
def Obligations.RoundRegisterUpdates : Prop :=
  ∀ (n : Nat) (x : Block × U64),
    (roundFwd n x).1 = #v[
      (x.1[2] ^^^ (roundF x.1[0] x.1[1] (deriveSubkeys n x.2).1).1).rotateRight 1,
      x.1[3].rotateLeft 1 ^^^ (roundF x.1[0] x.1[1] (deriveSubkeys n x.2).1).2, x.1[0], x.1[1]] ∧
    (roundInv n x).1 = #v[x.1[2], x.1[3],
      x.1[0].rotateLeft 1 ^^^ (roundF x.1[2] x.1[3] (deriveSubkeysInv n x.2).1).1,
      (x.1[1] ^^^ (roundF x.1[2] x.1[3] (deriveSubkeysInv n x.2).1).2).rotateRight 1] ∧
    (roundFwd n x).2 = (deriveSubkeys n x.2).2 ∧ (roundInv n x).2 = (deriveSubkeysInv n x.2).2

/-- R145: a round and its inverse, in either order, restore the registers and the key state. -/
def Obligations.RoundInverseLaw : Prop :=
  ∀ (r : Nat) (x : Block × U64), r < 16 → roundInv r (roundFwd r x) = x ∧ roundFwd r (roundInv r x) = x

/-- R142, R146, R147: each output whitening is undone by the other direction's input whitening. -/
def Obligations.WhiteningInverses : Prop :=
  ∀ b kw : Block,
    whitenInDec (whitenOutEnc b kw) kw = b ∧ whitenOutEnc (whitenInDec b kw) kw = b ∧
    whitenInEnc (whitenOutDec b kw) kw = b ∧ whitenOutDec (whitenInEnc b kw) kw = b

/-- R170: the block read from the first len bytes, big-endian, with zeros for the trailing bytes. -/
def Obligations.CodecReadPadsWithZeros : Prop :=
  ∀ (din : Vector U8 8) (len i : Nat) (h : i < 4), 1 ≤ len → len ≤ 8 →
    (codecRead din len)[i] =
      (if 2 * i < len then din[2 * i] else 0) ++ (if 2 * i + 1 < len then din[2 * i + 1] else 0)

/-- R176: reading what was written gives the block, and writing what was read in full gives the bytes. -/
def Obligations.CodecRoundTrip : Prop :=
  (∀ o : Block, codecRead (codecWrite o) 8 = o) ∧ (∀ b : Vector U8 8, codecWrite (codecRead b 8) = b)

/-- R151: decryption and encryption are inverse to each other, for every block and all key words. -/
def Obligations.DecryptInvertsEncrypt : Prop :=
  ∀ p kw : Block, decryptBlock (encryptBlock p kw) kw = p ∧ encryptBlock (decryptBlock p kw) kw = p

/-! ### Reset and the whole machine -/

/-- R43, R260: a reset sets every element to its reset value, whatever the core was doing, and STATUS then reads 0; the host's data
are not the core's. -/
def Obligations.ResetSetsEveryElement : Prop :=
  ∀ s : State, ∃ t, takeTurn .reset s = .next t ∧ regRead 0x24 t = 0 ∧ t = {
    key := Vector.replicate 16 0, kw := Vector.replicate 4 0, ks := 0, keyValid := false, r := Vector.replicate 4 0
    phase := .idle, cnt := 0, mode := .encrypt, din := Vector.replicate 8 0, dout := Vector.replicate 8 0
    eos := false, err := .none, host := s.host, sched := s.sched, replies := s.replies }

/-- R43, R45: the state after reset meets the invariants. -/
def Obligations.ResetMeetsInvariants : Prop := Inv State.reset

/-- R45, R152: every step keeps the invariants, from every state that meets them. -/
def Obligations.StepKeepsInvariants : Prop :=
  ∀ s t : State, Inv s → step s = .next t → Inv t

/-- R24: KEYVALID is set by an accepted KEYLOAD, and only by it, and cleared by a reset, and only by it; while it is 0 an ENC or DEC
with LEN 1 to 8 is rejected. -/
def Obligations.KeyValidLifecycle : Prop :=
  ∀ s t : State, step s = .next t →
    (s.keyValid = true → t.keyValid = false → nextTurn s = .reset) ∧
    (s.keyValid = false → t.keyValid = true →
      nextTurn s = .host ∧ s.phase ≠ .active ∧ ∃ v rest, s.host = .write 0x20 .w32 v :: rest ∧ decode v = .ok .keyload) ∧
    (∀ v rest, nextTurn s = .host → s.host = .write 0x20 .w32 v :: rest → decode v = .ok .keyload → s.phase ≠ .active →
      t.keyValid = true) ∧
    (nextTurn s = .reset → t.keyValid = false) ∧
    (∀ v rest (len : BitVec 4), nextTurn s = .host → s.host = .write 0x20 .w32 v :: rest →
      (decode v = .ok (.enc len) ∨ decode v = .ok (.dec len)) → 1 ≤ len.toNat → len.toNat ≤ 8 → s.keyValid = false →
      ∃ code, code ≠ ErrCode.none ∧
        t = { s with host := rest, sched := s.sched.tail, err := if s.err = .none then code else s.err })

/-- R30: DOUT changes only by an output engine step or a reset. R27 has the output step at CNT = 16; that the clause also takes in an
Active state with CNT above 16, which no run reaches and `Inv` rules out, is the model's choice (log entry 10). -/
def Obligations.DoutWrittenOnlyByOutputStep : Prop :=
  ∀ s t : State, step s = .next t → t.dout ≠ s.dout →
    (nextTurn s = .engine ∧ s.phase = .active ∧ 16 ≤ s.cnt.toNat ∧ t.phase = .done ∧
      t.dout = codecWrite (whitenOut s.mode s.r s.kw)) ∨
    (nextTurn s = .reset ∧ t.dout = #v[0, 0, 0, 0, 0, 0, 0, 0])

/-- R32: a recorded error code stays until CLRERR or reset. -/
def Obligations.FirstErrorIsKept : Prop :=
  ∀ s t : State, step s = .next t → s.err ≠ .none → t.err ≠ s.err →
    t.err = .none ∧
    (nextTurn s = .reset ∨
      (nextTurn s = .host ∧ ∃ v rest, s.host = .write 0x20 .w32 v :: rest ∧ decode v = .ok .clrerr))

/-- R25: R is written only by the acceptance of a block operation, by a round engine step, or by a reset. -/
def Obligations.WorkingRegisterWriters : Prop :=
  ∀ s t : State, step s = .next t → t.r ≠ s.r →
    nextTurn s = .reset ∨
    (nextTurn s = .engine ∧ s.phase = .active ∧ s.cnt.toNat < 16) ∨
    (nextTurn s = .host ∧ ∃ v rest len, s.host = .write 0x20 .w32 v :: rest ∧
      (decode v = .ok (.enc len) ∨ decode v = .ok (.dec len)) ∧ 1 ≤ len.toNat ∧ len.toNat ≤ 8 ∧
      s.phase ≠ .active ∧ s.keyValid = true)

/-- R22: KW is written only by KEYLOAD, from KEY, or by a reset. -/
def Obligations.KeyWordWriters : Prop :=
  ∀ s t : State, step s = .next t → t.kw ≠ s.kw →
    nextTurn s = .reset ∨
    (nextTurn s = .host ∧ t.kw = keyWords s.key ∧
      ∃ v rest, s.host = .write 0x20 .w32 v :: rest ∧ decode v = .ok .keyload)

/-- R243, R260 (refused as the spec says a model does; log entries 7 and 8): an access while reset is asserted and an access by a
second host have no meaning. -/
def Obligations.ForbiddenTurnsRefused : Prop :=
  ∀ (s : State) (ts : List Turn),
    (s.sched = .hostInReset :: ts → step s = .refused .hostAccessInReset) ∧
    (s.sched = .secondHost :: ts → step s = .refused .secondHost)

/-- R245, R276 (the order of turns after the list is the model's choice, log entry 2): with no turn ordered, an Active engine is
served; a quiescent core with no host access left stays as it is. -/
def Obligations.UnorderedTurnServesEngine : Prop :=
  ∀ s : State, s.sched = [] →
    (s.phase = .active → step s = .next (engineTurn s)) ∧
    (s.phase ≠ .active → step s = hostTurn s) ∧
    (RunEnded s → step s = .next s)

/-! ### Host programs -/

/-- R89: from any state outside a block, the five accesses of SETKEY leave the sixteen key bytes, KW, KS and KEYVALID as KEYLOAD of
these bytes makes them, and change nothing else of the core. -/
def Obligations.SetKeyLoadsKey : Prop :=
  ∀ (s : State) (a b c d : U32) (rest : List HostOp), s.phase ≠ .active → s.host = setKey a b c d ++ rest →
    ∃ t, runTurns [.host, .host, .host, .host, .host] s = .next t ∧
      t = { s with key := t.key, kw := t.kw, ks := t.ks, keyValid := true, host := rest } ∧
      t.key = #v[a.extractLsb' 24 8, a.extractLsb' 16 8, a.extractLsb' 8 8, a.extractLsb' 0 8,
        b.extractLsb' 24 8, b.extractLsb' 16 8, b.extractLsb' 8 8, b.extractLsb' 0 8,
        c.extractLsb' 24 8, c.extractLsb' 16 8, c.extractLsb' 8 8, c.extractLsb' 0 8,
        d.extractLsb' 24 8, d.extractLsb' 16 8, d.extractLsb' 8 8, d.extractLsb' 0 8] ∧
      t.kw = #v[a.extractLsb' 16 16, a.extractLsb' 0 16, b.extractLsb' 16 16, b.extractLsb' 0 16] ∧ t.ks = a ++ b

/-- R174: the commands of a stream of n bytes carry n bytes in all, each at most 8, the last is the end of stream, and there are
ceil(n/8) blocks. -/
def Obligations.StreamCommandsCoverStream : Prop :=
  ∀ n : Nat,
    ((streamLens n).map BitVec.toNat).sum = n ∧ (∀ len ∈ streamLens n, len.toNat ≤ 8) ∧
    (streamLens n).getLast? = some 0 ∧ ((streamLens n).filter (fun len => len ≠ 0)).length = (n + 7) / 8
end

