-- ==== Sys2Proof/Laws/Bits.lean ====
section
/-! SUPPORT. Laws of the bit-field, byte-order and rotation helpers. -/

namespace Sys2Proof.Machine

theorem rotl64_getLsbD (x : U64) (n i : Nat) (hi : i < 64) :
    (rotl64 x n).getLsbD i = x.getLsbD ((i + (64 - n % 64)) % 64) := by
  rw [rotl64, BitVec.getLsbD_rotateLeft, Bool.cond_eq_ite]
  have hn := Nat.mod_lt n (show 0 < 64 by decide)
  simp only [decide_eq_true_eq]
  split
  · rw [show (i + (64 - n % 64)) % 64 = 64 - n % 64 + i by omega]
  · rw [show (i + (64 - n % 64)) % 64 = i - n % 64 by omega]
    simp [hi]

theorem rotr64_getLsbD (x : U64) (n i : Nat) (hi : i < 64) :
    (rotr64 x n).getLsbD i = x.getLsbD ((i + n) % 64) := by
  rw [rotr64, BitVec.getLsbD_rotateRight, Bool.cond_eq_ite]
  have hn := Nat.mod_lt n (show 0 < 64 by decide)
  simp only [decide_eq_true_eq]
  split
  · rw [show (i + n) % 64 = n % 64 + i by omega]
  · rw [show (i + n) % 64 = i - (64 - n % 64) by omega]
    simp [hi]

/-- Left rotations add up. -/
theorem rotl64_rotl64 (x : U64) (m n : Nat) : rotl64 (rotl64 x m) n = rotl64 x (m + n) := by
  apply BitVec.eq_of_getLsbD_eq
  intro i hi
  rw [rotl64_getLsbD _ _ _ hi, rotl64_getLsbD _ _ _ (Nat.mod_lt _ (by decide)), rotl64_getLsbD _ _ _ hi]
  congr 1
  omega

/-- Right rotations add up. -/
theorem rotr64_rotr64 (x : U64) (m n : Nat) : rotr64 (rotr64 x m) n = rotr64 x (m + n) := by
  apply BitVec.eq_of_getLsbD_eq
  intro i hi
  rw [rotr64_getLsbD _ _ _ hi, rotr64_getLsbD _ _ _ (Nat.mod_lt _ (by decide)), rotr64_getLsbD _ _ _ hi]
  congr 1
  omega

/-- A right rotation undoes the left rotation by as much. -/
theorem rotr64_rotl64 (x : U64) (n : Nat) : rotr64 (rotl64 x n) n = x := by
  apply BitVec.eq_of_getLsbD_eq
  intro i hi
  rw [rotr64_getLsbD _ _ _ hi, rotl64_getLsbD _ _ _ (Nat.mod_lt _ (by decide))]
  congr 1
  omega

/-- A left rotation undoes the right rotation by as much. -/
theorem rotl64_rotr64 (x : U64) (n : Nat) : rotl64 (rotr64 x n) n = x := by
  apply BitVec.eq_of_getLsbD_eq
  intro i hi
  rw [rotl64_getLsbD _ _ _ hi, rotr64_getLsbD _ _ _ (Nat.mod_lt _ (by decide))]
  congr 1
  omega

/-- Whole turns are the identity. -/
theorem rotl64_whole (x : U64) (k : Nat) : rotl64 x (64 * k) = x := by
  apply BitVec.eq_of_getLsbD_eq
  intro i hi
  rw [rotl64_getLsbD _ _ _ hi]
  congr 1
  omega

theorem rotr64_whole (x : U64) (k : Nat) : rotr64 x (64 * k) = x := by
  apply BitVec.eq_of_getLsbD_eq
  intro i hi
  rw [rotr64_getLsbD _ _ _ hi]
  congr 1
  omega

theorem rotl16_getLsbD_one (x : U16) (i : Nat) (hi : i < 16) :
    (rotl16 x 1).getLsbD i = x.getLsbD ((i + 15) % 16) := by
  rw [rotl16, BitVec.getLsbD_rotateLeft, Bool.cond_eq_ite]
  simp only [decide_eq_true_eq]
  split
  · rw [show (i + 15) % 16 = 16 - 1 % 16 + i by omega]
  · rw [show (i + 15) % 16 = i - 1 % 16 by omega]
    simp [hi]

theorem rotr16_getLsbD_one (x : U16) (i : Nat) (hi : i < 16) :
    (rotr16 x 1).getLsbD i = x.getLsbD ((i + 1) % 16) := by
  rw [rotr16, BitVec.getLsbD_rotateRight, Bool.cond_eq_ite]
  simp only [decide_eq_true_eq]
  split
  · rw [show (i + 1) % 16 = 1 % 16 + i by omega]
  · rw [show (i + 1) % 16 = i - (16 - 1 % 16) by omega]
    simp [hi]

@[simp] theorem rotr16_rotl16 (x : U16) : rotr16 (rotl16 x 1) 1 = x := by
  apply BitVec.eq_of_getLsbD_eq
  intro i hi
  rw [rotr16_getLsbD_one _ _ hi, rotl16_getLsbD_one _ _ (Nat.mod_lt _ (by decide))]
  congr 1
  omega

@[simp] theorem rotl16_rotr16 (x : U16) : rotl16 (rotr16 x 1) 1 = x := by
  apply BitVec.eq_of_getLsbD_eq
  intro i hi
  rw [rotl16_getLsbD_one _ _ hi, rotr16_getLsbD_one _ _ (Nat.mod_lt _ (by decide))]
  congr 1
  omega

@[simp] theorem highByte_beWord (h l : U8) : highByte (beWord h l) = h := by
  simp only [highByte, beWord]
  exact BitVec.extractLsb'_append_eq_left

@[simp] theorem lowByte_beWord (h l : U8) : lowByte (beWord h l) = l := by
  simp only [lowByte, beWord]
  exact BitVec.extractLsb'_append_eq_right

@[simp] theorem beWord_highByte_lowByte (w : U16) : beWord (highByte w) (lowByte w) = w := by
  apply BitVec.eq_of_getLsbD_eq
  intro i hi
  simp only [beWord, highByte, lowByte, BitVec.getLsbD_append, BitVec.getLsbD_extractLsb']
  split
  · simp [*]
  · rw [show 8 + (i - 8) = i by omega]
    simp [show i - 8 < 8 by omega]

theorem lane_getLsbD (k i : Nat) (v : U32) (hi : i < 8) :
    (lane k v).getLsbD i = v.getLsbD (8 * (3 - k) + i) := by
  simp [lane, hi]

/-- The four lanes of a register value put together again. -/
@[simp] theorem lanes_lane (v : U32) : lanes (lane 0 v) (lane 1 v) (lane 2 v) (lane 3 v) = v := by
  apply BitVec.eq_of_getLsbD_eq
  intro i hi
  simp only [lanes, BitVec.getLsbD_append]
  split
  · rw [lane_getLsbD _ _ _ ‹_›]
    simp
  · split
    · rw [lane_getLsbD _ _ _ ‹_›]
      congr 1
      omega
    · split
      · rw [lane_getLsbD _ _ _ ‹_›]
        congr 1
        omega
      · rw [lane_getLsbD _ _ _ (by omega)]
        congr 1
        omega

/-- A lane is a byte field of the value. -/
theorem lane_eq_extractLsb (k : Nat) (v : U32) : lane k v = v.extractLsb' (8 * (3-k)) 8 := by
  apply BitVec.eq_of_getLsbD_eq
  intro i hi
  simp [lane, hi]

/-- Every byte after a write of four lanes. -/
theorem setLanes_getElem {n : Nat} (b : Vector U8 n) (base : Nat) (v : U32) (j : Nat) (h : j < n) :
   (setLanes b base v)[j] = if base ≤ j ∧ j < base + 4 then lane (j - base) v else b[j] := by
  simp only [setLanes, Vector.getElem_setIfInBounds]
  by_cases h3 : base + 3 = j
  · subst h3; simp
  · by_cases h2 : base + 2 = j
    · subst h2; simp
    · by_cases h1 : base + 1 = j
      · subst h1; simp
      · by_cases h0 : base = j
        · subst h0; simp
        · simp [*]; intro a b; omega

end Sys2Proof.Machine
end

