-- ==== Sys2Proof/Laws/Decode.lean ====
section
/-! SUPPORT. Lemmas on command words and on the LEN operand. -/

namespace Sys2Proof.Machine

/-- Field by field, a command word holds what it was built from. -/
theorem commandWord_fields (len : BitVec 4) (op : U8) :
    opField (commandWord len op) = op ∧ lenField (commandWord len op) = len ∧ rsvdField (commandWord len op) = 0 := by
  refine ⟨BitVec.extractLsb'_append_eq_right, ?_, ?_⟩
  · apply BitVec.eq_of_getLsbD_eq
    intro i hi
    simp only [lenField, commandWord, BitVec.getLsbD_extractLsb', BitVec.getLsbD_append, hi]
    rw [if_neg (by omega), if_pos (by omega), show 8 + i - 8 = i by omega]; simp
  · apply BitVec.eq_of_getLsbD_eq
    intro i hi
    simp only [rsvdField, commandWord, BitVec.getLsbD_extractLsb', BitVec.getLsbD_append, hi]
    rw [if_neg (by omega), if_neg (by omega)]; simp

/-- A word whose RSVD field is 0 is the command word of its own LEN and OP. -/
theorem eq_commandWord_of_rsvd (v : U32) (h : rsvdField v = 0) : v = commandWord (lenField v) (opField v) := by
  apply BitVec.eq_of_getLsbD_eq
  intro i hi
  simp only [commandWord, lenField, opField, BitVec.getLsbD_append, BitVec.getLsbD_extractLsb']
  split
  · simp [*]
  · split
    · simp [*]; congr 1; omega
    · have := congrArg (fun x => x.getLsbD (i - 12)) h
      simp [rsvdField] at this
      rw [show 12 + (i-12) = i by omega] at this
      simp; exact this (by omega)

theorem isEndOfStream_iff (len : BitVec 4) : isEndOfStream len = true ↔ len = 0 := by revert len; decide

theorem isBadLen_iff (len : BitVec 4) : isBadLen len = true ↔ 8 < len.toNat := by revert len; decide

end Sys2Proof.Machine
end

