-- ==== Sys2Proof/Laws/KeySchedule.lean ====
section
/-! SUPPORT. Lemmas on the packed key state. -/

namespace Sys2Proof.Machine

/-- Every bit of the packed key words. -/
theorem k64_getLsbD (kw : Vector U16 4) (i : Nat) :
    (k64 kw).getLsbD i =
      if i < 16 then kw[3].getLsbD i else if i < 32 then kw[2].getLsbD (i - 16)
      else if i < 48 then kw[1].getLsbD (i - 32) else kw[0].getLsbD (i - 48) := by
  simp only [k64]
  rw [BitVec.getLsbD_append, BitVec.getLsbD_append, BitVec.getLsbD_append]
  simp only [Nat.sub_sub]
  repeat' split
  all_goals first | omega | rfl

end Sys2Proof.Machine
end

