-- ==== Sys2Proof/Laws/State.lean ====
section
/-! SUPPORT. What each named update of the state makes of each field: the frames of the updates, field by field. -/

namespace Sys2Proof.Machine

@[simp] theorem reject_key (code : ErrCode) (s : State) : (reject code s).key = s.key := rfl
@[simp] theorem reject_kw (code : ErrCode) (s : State) : (reject code s).kw = s.kw := rfl
@[simp] theorem reject_ks (code : ErrCode) (s : State) : (reject code s).ks = s.ks := rfl
@[simp] theorem reject_keyValid (code : ErrCode) (s : State) : (reject code s).keyValid = s.keyValid := rfl
@[simp] theorem reject_r (code : ErrCode) (s : State) : (reject code s).r = s.r := rfl
@[simp] theorem reject_phase (code : ErrCode) (s : State) : (reject code s).phase = s.phase := rfl
@[simp] theorem reject_cnt (code : ErrCode) (s : State) : (reject code s).cnt = s.cnt := rfl
@[simp] theorem reject_mode (code : ErrCode) (s : State) : (reject code s).mode = s.mode := rfl
@[simp] theorem reject_din (code : ErrCode) (s : State) : (reject code s).din = s.din := rfl
@[simp] theorem reject_dout (code : ErrCode) (s : State) : (reject code s).dout = s.dout := rfl
@[simp] theorem reject_eos (code : ErrCode) (s : State) : (reject code s).eos = s.eos := rfl
@[simp] theorem reject_err (code : ErrCode) (s : State) : (reject code s).err = if s.err = .none then code else s.err :=
    rfl
@[simp] theorem reject_host (code : ErrCode) (s : State) : (reject code s).host = s.host := rfl
@[simp] theorem reject_sched (code : ErrCode) (s : State) : (reject code s).sched = s.sched := rfl
@[simp] theorem reject_replies (code : ErrCode) (s : State) : (reject code s).replies = s.replies := rfl

@[simp] theorem clearErr_key (s : State) : (clearErr s).key = s.key := rfl
@[simp] theorem clearErr_kw (s : State) : (clearErr s).kw = s.kw := rfl
@[simp] theorem clearErr_ks (s : State) : (clearErr s).ks = s.ks := rfl
@[simp] theorem clearErr_keyValid (s : State) : (clearErr s).keyValid = s.keyValid := rfl
@[simp] theorem clearErr_r (s : State) : (clearErr s).r = s.r := rfl
@[simp] theorem clearErr_phase (s : State) : (clearErr s).phase = s.phase := rfl
@[simp] theorem clearErr_cnt (s : State) : (clearErr s).cnt = s.cnt := rfl
@[simp] theorem clearErr_mode (s : State) : (clearErr s).mode = s.mode := rfl
@[simp] theorem clearErr_din (s : State) : (clearErr s).din = s.din := rfl
@[simp] theorem clearErr_dout (s : State) : (clearErr s).dout = s.dout := rfl
@[simp] theorem clearErr_eos (s : State) : (clearErr s).eos = s.eos := rfl
@[simp] theorem clearErr_err (s : State) : (clearErr s).err = .none := rfl
@[simp] theorem clearErr_host (s : State) : (clearErr s).host = s.host := rfl
@[simp] theorem clearErr_sched (s : State) : (clearErr s).sched = s.sched := rfl
@[simp] theorem clearErr_replies (s : State) : (clearErr s).replies = s.replies := rfl

@[simp] theorem loadKey_key (s : State) : (loadKey s).key = s.key := rfl
@[simp] theorem loadKey_kw (s : State) : (loadKey s).kw = keyWords s.key := rfl
@[simp] theorem loadKey_ks (s : State) : (loadKey s).ks = k64 (keyWords s.key) := rfl
@[simp] theorem loadKey_keyValid (s : State) : (loadKey s).keyValid = true := rfl
@[simp] theorem loadKey_r (s : State) : (loadKey s).r = s.r := rfl
@[simp] theorem loadKey_phase (s : State) : (loadKey s).phase = s.phase := rfl
@[simp] theorem loadKey_cnt (s : State) : (loadKey s).cnt = s.cnt := rfl
@[simp] theorem loadKey_mode (s : State) : (loadKey s).mode = s.mode := rfl
@[simp] theorem loadKey_din (s : State) : (loadKey s).din = s.din := rfl
@[simp] theorem loadKey_dout (s : State) : (loadKey s).dout = s.dout := rfl
@[simp] theorem loadKey_eos (s : State) : (loadKey s).eos = s.eos := rfl
@[simp] theorem loadKey_err (s : State) : (loadKey s).err = s.err := rfl
@[simp] theorem loadKey_host (s : State) : (loadKey s).host = s.host := rfl
@[simp] theorem loadKey_sched (s : State) : (loadKey s).sched = s.sched := rfl
@[simp] theorem loadKey_replies (s : State) : (loadKey s).replies = s.replies := rfl

@[simp] theorem endStream_key (m : Mode) (s : State) : (endStream m s).key = s.key := rfl
@[simp] theorem endStream_kw (m : Mode) (s : State) : (endStream m s).kw = s.kw := rfl
@[simp] theorem endStream_ks (m : Mode) (s : State) : (endStream m s).ks = s.ks := rfl
@[simp] theorem endStream_keyValid (m : Mode) (s : State) : (endStream m s).keyValid = s.keyValid := rfl
@[simp] theorem endStream_r (m : Mode) (s : State) : (endStream m s).r = s.r := rfl
@[simp] theorem endStream_phase (m : Mode) (s : State) : (endStream m s).phase = .idle := rfl
@[simp] theorem endStream_cnt (m : Mode) (s : State) : (endStream m s).cnt = 0 := rfl
@[simp] theorem endStream_mode (m : Mode) (s : State) : (endStream m s).mode = m := rfl
@[simp] theorem endStream_din (m : Mode) (s : State) : (endStream m s).din = s.din := rfl
@[simp] theorem endStream_dout (m : Mode) (s : State) : (endStream m s).dout = s.dout := rfl
@[simp] theorem endStream_eos (m : Mode) (s : State) : (endStream m s).eos = true := rfl
@[simp] theorem endStream_err (m : Mode) (s : State) : (endStream m s).err = s.err := rfl
@[simp] theorem endStream_host (m : Mode) (s : State) : (endStream m s).host = s.host := rfl
@[simp] theorem endStream_sched (m : Mode) (s : State) : (endStream m s).sched = s.sched := rfl
@[simp] theorem endStream_replies (m : Mode) (s : State) : (endStream m s).replies = s.replies := rfl

@[simp] theorem startBlock_key (m : Mode) (b : Block) (s : State) : (startBlock m b s).key = s.key := rfl
@[simp] theorem startBlock_kw (m : Mode) (b : Block) (s : State) : (startBlock m b s).kw = s.kw := rfl
@[simp] theorem startBlock_ks (m : Mode) (b : Block) (s : State) : (startBlock m b s).ks = s.ks := rfl
@[simp] theorem startBlock_keyValid (m : Mode) (b : Block) (s : State) : (startBlock m b s).keyValid = s.keyValid := rfl
@[simp] theorem startBlock_r (m : Mode) (b : Block) (s : State) : (startBlock m b s).r = whitenIn m b s.kw := rfl
@[simp] theorem startBlock_phase (m : Mode) (b : Block) (s : State) : (startBlock m b s).phase = .active := rfl
@[simp] theorem startBlock_cnt (m : Mode) (b : Block) (s : State) : (startBlock m b s).cnt = 0 := rfl
@[simp] theorem startBlock_mode (m : Mode) (b : Block) (s : State) : (startBlock m b s).mode = m := rfl
@[simp] theorem startBlock_din (m : Mode) (b : Block) (s : State) : (startBlock m b s).din = s.din := rfl
@[simp] theorem startBlock_dout (m : Mode) (b : Block) (s : State) : (startBlock m b s).dout = s.dout := rfl
@[simp] theorem startBlock_eos (m : Mode) (b : Block) (s : State) : (startBlock m b s).eos = false := rfl
@[simp] theorem startBlock_err (m : Mode) (b : Block) (s : State) : (startBlock m b s).err = s.err := rfl
@[simp] theorem startBlock_host (m : Mode) (b : Block) (s : State) : (startBlock m b s).host = s.host := rfl
@[simp] theorem startBlock_sched (m : Mode) (b : Block) (s : State) : (startBlock m b s).sched = s.sched := rfl
@[simp] theorem startBlock_replies (m : Mode) (b : Block) (s : State) : (startBlock m b s).replies = s.replies := rfl

@[simp] theorem answer_key (rep : Reply) (s : State) : (answer rep s).key = s.key := rfl
@[simp] theorem answer_kw (rep : Reply) (s : State) : (answer rep s).kw = s.kw := rfl
@[simp] theorem answer_ks (rep : Reply) (s : State) : (answer rep s).ks = s.ks := rfl
@[simp] theorem answer_keyValid (rep : Reply) (s : State) : (answer rep s).keyValid = s.keyValid := rfl
@[simp] theorem answer_r (rep : Reply) (s : State) : (answer rep s).r = s.r := rfl
@[simp] theorem answer_phase (rep : Reply) (s : State) : (answer rep s).phase = s.phase := rfl
@[simp] theorem answer_cnt (rep : Reply) (s : State) : (answer rep s).cnt = s.cnt := rfl
@[simp] theorem answer_mode (rep : Reply) (s : State) : (answer rep s).mode = s.mode := rfl
@[simp] theorem answer_din (rep : Reply) (s : State) : (answer rep s).din = s.din := rfl
@[simp] theorem answer_dout (rep : Reply) (s : State) : (answer rep s).dout = s.dout := rfl
@[simp] theorem answer_eos (rep : Reply) (s : State) : (answer rep s).eos = s.eos := rfl
@[simp] theorem answer_err (rep : Reply) (s : State) : (answer rep s).err = s.err := rfl
@[simp] theorem answer_host (rep : Reply) (s : State) : (answer rep s).host = s.host := rfl
@[simp] theorem answer_sched (rep : Reply) (s : State) : (answer rep s).sched = s.sched := rfl
@[simp] theorem answer_replies (rep : Reply) (s : State) : (answer rep s).replies = rep :: s.replies := rfl

@[simp] theorem withHost_key (ops : List HostOp) (s : State) : (withHost ops s).key = s.key := rfl
@[simp] theorem withHost_kw (ops : List HostOp) (s : State) : (withHost ops s).kw = s.kw := rfl
@[simp] theorem withHost_ks (ops : List HostOp) (s : State) : (withHost ops s).ks = s.ks := rfl
@[simp] theorem withHost_keyValid (ops : List HostOp) (s : State) : (withHost ops s).keyValid = s.keyValid := rfl
@[simp] theorem withHost_r (ops : List HostOp) (s : State) : (withHost ops s).r = s.r := rfl
@[simp] theorem withHost_phase (ops : List HostOp) (s : State) : (withHost ops s).phase = s.phase := rfl
@[simp] theorem withHost_cnt (ops : List HostOp) (s : State) : (withHost ops s).cnt = s.cnt := rfl
@[simp] theorem withHost_mode (ops : List HostOp) (s : State) : (withHost ops s).mode = s.mode := rfl
@[simp] theorem withHost_din (ops : List HostOp) (s : State) : (withHost ops s).din = s.din := rfl
@[simp] theorem withHost_dout (ops : List HostOp) (s : State) : (withHost ops s).dout = s.dout := rfl
@[simp] theorem withHost_eos (ops : List HostOp) (s : State) : (withHost ops s).eos = s.eos := rfl
@[simp] theorem withHost_err (ops : List HostOp) (s : State) : (withHost ops s).err = s.err := rfl
@[simp] theorem withHost_host (ops : List HostOp) (s : State) : (withHost ops s).host = ops := rfl
@[simp] theorem withHost_sched (ops : List HostOp) (s : State) : (withHost ops s).sched = s.sched := rfl
@[simp] theorem withHost_replies (ops : List HostOp) (s : State) : (withHost ops s).replies = s.replies := rfl

@[simp] theorem withSched_key (ts : List Turn) (s : State) : (withSched ts s).key = s.key := rfl
@[simp] theorem withSched_kw (ts : List Turn) (s : State) : (withSched ts s).kw = s.kw := rfl
@[simp] theorem withSched_ks (ts : List Turn) (s : State) : (withSched ts s).ks = s.ks := rfl
@[simp] theorem withSched_keyValid (ts : List Turn) (s : State) : (withSched ts s).keyValid = s.keyValid := rfl
@[simp] theorem withSched_r (ts : List Turn) (s : State) : (withSched ts s).r = s.r := rfl
@[simp] theorem withSched_phase (ts : List Turn) (s : State) : (withSched ts s).phase = s.phase := rfl
@[simp] theorem withSched_cnt (ts : List Turn) (s : State) : (withSched ts s).cnt = s.cnt := rfl
@[simp] theorem withSched_mode (ts : List Turn) (s : State) : (withSched ts s).mode = s.mode := rfl
@[simp] theorem withSched_din (ts : List Turn) (s : State) : (withSched ts s).din = s.din := rfl
@[simp] theorem withSched_dout (ts : List Turn) (s : State) : (withSched ts s).dout = s.dout := rfl
@[simp] theorem withSched_eos (ts : List Turn) (s : State) : (withSched ts s).eos = s.eos := rfl
@[simp] theorem withSched_err (ts : List Turn) (s : State) : (withSched ts s).err = s.err := rfl
@[simp] theorem withSched_host (ts : List Turn) (s : State) : (withSched ts s).host = s.host := rfl
@[simp] theorem withSched_sched (ts : List Turn) (s : State) : (withSched ts s).sched = ts := rfl
@[simp] theorem withSched_replies (ts : List Turn) (s : State) : (withSched ts s).replies = s.replies := rfl

@[simp] theorem writeKey_key (n : Nat) (v : U32) (s : State) : (writeKey n v s).key = setLanes s.key (4 * n) v := rfl
@[simp] theorem writeKey_kw (n : Nat) (v : U32) (s : State) : (writeKey n v s).kw = s.kw := rfl
@[simp] theorem writeKey_ks (n : Nat) (v : U32) (s : State) : (writeKey n v s).ks = s.ks := rfl
@[simp] theorem writeKey_keyValid (n : Nat) (v : U32) (s : State) : (writeKey n v s).keyValid = s.keyValid := rfl
@[simp] theorem writeKey_r (n : Nat) (v : U32) (s : State) : (writeKey n v s).r = s.r := rfl
@[simp] theorem writeKey_phase (n : Nat) (v : U32) (s : State) : (writeKey n v s).phase = s.phase := rfl
@[simp] theorem writeKey_cnt (n : Nat) (v : U32) (s : State) : (writeKey n v s).cnt = s.cnt := rfl
@[simp] theorem writeKey_mode (n : Nat) (v : U32) (s : State) : (writeKey n v s).mode = s.mode := rfl
@[simp] theorem writeKey_din (n : Nat) (v : U32) (s : State) : (writeKey n v s).din = s.din := rfl
@[simp] theorem writeKey_dout (n : Nat) (v : U32) (s : State) : (writeKey n v s).dout = s.dout := rfl
@[simp] theorem writeKey_eos (n : Nat) (v : U32) (s : State) : (writeKey n v s).eos = s.eos := rfl
@[simp] theorem writeKey_err (n : Nat) (v : U32) (s : State) : (writeKey n v s).err = s.err := rfl
@[simp] theorem writeKey_host (n : Nat) (v : U32) (s : State) : (writeKey n v s).host = s.host := rfl
@[simp] theorem writeKey_sched (n : Nat) (v : U32) (s : State) : (writeKey n v s).sched = s.sched := rfl
@[simp] theorem writeKey_replies (n : Nat) (v : U32) (s : State) : (writeKey n v s).replies = s.replies := rfl

@[simp] theorem writeDin_key (n : Nat) (v : U32) (s : State) : (writeDin n v s).key = s.key := rfl
@[simp] theorem writeDin_kw (n : Nat) (v : U32) (s : State) : (writeDin n v s).kw = s.kw := rfl
@[simp] theorem writeDin_ks (n : Nat) (v : U32) (s : State) : (writeDin n v s).ks = s.ks := rfl
@[simp] theorem writeDin_keyValid (n : Nat) (v : U32) (s : State) : (writeDin n v s).keyValid = s.keyValid := rfl
@[simp] theorem writeDin_r (n : Nat) (v : U32) (s : State) : (writeDin n v s).r = s.r := rfl
@[simp] theorem writeDin_phase (n : Nat) (v : U32) (s : State) : (writeDin n v s).phase = s.phase := rfl
@[simp] theorem writeDin_cnt (n : Nat) (v : U32) (s : State) : (writeDin n v s).cnt = s.cnt := rfl
@[simp] theorem writeDin_mode (n : Nat) (v : U32) (s : State) : (writeDin n v s).mode = s.mode := rfl
@[simp] theorem writeDin_din (n : Nat) (v : U32) (s : State) : (writeDin n v s).din = setLanes s.din (4 * n) v := rfl
@[simp] theorem writeDin_dout (n : Nat) (v : U32) (s : State) : (writeDin n v s).dout = s.dout := rfl
@[simp] theorem writeDin_eos (n : Nat) (v : U32) (s : State) : (writeDin n v s).eos = s.eos := rfl
@[simp] theorem writeDin_err (n : Nat) (v : U32) (s : State) : (writeDin n v s).err = s.err := rfl
@[simp] theorem writeDin_host (n : Nat) (v : U32) (s : State) : (writeDin n v s).host = s.host := rfl
@[simp] theorem writeDin_sched (n : Nat) (v : U32) (s : State) : (writeDin n v s).sched = s.sched := rfl
@[simp] theorem writeDin_replies (n : Nat) (v : U32) (s : State) : (writeDin n v s).replies = s.replies := rfl

@[simp] theorem resetCore_key (s : State) : (resetCore s).key = State.reset.key := rfl
@[simp] theorem resetCore_kw (s : State) : (resetCore s).kw = State.reset.kw := rfl
@[simp] theorem resetCore_ks (s : State) : (resetCore s).ks = State.reset.ks := rfl
@[simp] theorem resetCore_keyValid (s : State) : (resetCore s).keyValid = State.reset.keyValid := rfl
@[simp] theorem resetCore_r (s : State) : (resetCore s).r = State.reset.r := rfl
@[simp] theorem resetCore_phase (s : State) : (resetCore s).phase = State.reset.phase := rfl
@[simp] theorem resetCore_cnt (s : State) : (resetCore s).cnt = State.reset.cnt := rfl
@[simp] theorem resetCore_mode (s : State) : (resetCore s).mode = State.reset.mode := rfl
@[simp] theorem resetCore_din (s : State) : (resetCore s).din = State.reset.din := rfl
@[simp] theorem resetCore_dout (s : State) : (resetCore s).dout = State.reset.dout := rfl
@[simp] theorem resetCore_eos (s : State) : (resetCore s).eos = State.reset.eos := rfl
@[simp] theorem resetCore_err (s : State) : (resetCore s).err = State.reset.err := rfl
@[simp] theorem resetCore_host (s : State) : (resetCore s).host = s.host := rfl
@[simp] theorem resetCore_sched (s : State) : (resetCore s).sched = s.sched := rfl
@[simp] theorem resetCore_replies (s : State) : (resetCore s).replies = s.replies := rfl

@[simp] theorem roundStep_key (s : State) : (roundStep s).key = s.key := rfl
@[simp] theorem roundStep_kw (s : State) : (roundStep s).kw = s.kw := rfl
@[simp] theorem roundStep_ks (s : State) : (roundStep s).ks = (roundOf s.mode s.cnt.toNat (s.r, s.ks)).2 := rfl
@[simp] theorem roundStep_keyValid (s : State) : (roundStep s).keyValid = s.keyValid := rfl
@[simp] theorem roundStep_r (s : State) : (roundStep s).r = (roundOf s.mode s.cnt.toNat (s.r, s.ks)).1 := rfl
@[simp] theorem roundStep_phase (s : State) : (roundStep s).phase = s.phase := rfl
@[simp] theorem roundStep_cnt (s : State) : (roundStep s).cnt = s.cnt + 1 := rfl
@[simp] theorem roundStep_mode (s : State) : (roundStep s).mode = s.mode := rfl
@[simp] theorem roundStep_din (s : State) : (roundStep s).din = s.din := rfl
@[simp] theorem roundStep_dout (s : State) : (roundStep s).dout = s.dout := rfl
@[simp] theorem roundStep_eos (s : State) : (roundStep s).eos = s.eos := rfl
@[simp] theorem roundStep_err (s : State) : (roundStep s).err = s.err := rfl
@[simp] theorem roundStep_host (s : State) : (roundStep s).host = s.host := rfl
@[simp] theorem roundStep_sched (s : State) : (roundStep s).sched = s.sched := rfl
@[simp] theorem roundStep_replies (s : State) : (roundStep s).replies = s.replies := rfl

@[simp] theorem outputStep_key (s : State) : (outputStep s).key = s.key := rfl
@[simp] theorem outputStep_kw (s : State) : (outputStep s).kw = s.kw := rfl
@[simp] theorem outputStep_ks (s : State) : (outputStep s).ks = s.ks := rfl
@[simp] theorem outputStep_keyValid (s : State) : (outputStep s).keyValid = s.keyValid := rfl
@[simp] theorem outputStep_r (s : State) : (outputStep s).r = s.r := rfl
@[simp] theorem outputStep_phase (s : State) : (outputStep s).phase = .done := rfl
@[simp] theorem outputStep_cnt (s : State) : (outputStep s).cnt = s.cnt := rfl
@[simp] theorem outputStep_mode (s : State) : (outputStep s).mode = s.mode := rfl
@[simp] theorem outputStep_din (s : State) : (outputStep s).din = s.din := rfl
@[simp] theorem outputStep_dout (s : State) : (outputStep s).dout = codecWrite (whitenOut s.mode s.r s.kw) := rfl
@[simp] theorem outputStep_eos (s : State) : (outputStep s).eos = s.eos := rfl
@[simp] theorem outputStep_err (s : State) : (outputStep s).err = s.err := rfl
@[simp] theorem outputStep_host (s : State) : (outputStep s).host = s.host := rfl
@[simp] theorem outputStep_sched (s : State) : (outputStep s).sched = s.sched := rfl
@[simp] theorem outputStep_replies (s : State) : (outputStep s).replies = s.replies := rfl

@[simp] theorem withSched_withSched (ts us : List Turn) (s : State) : withSched ts (withSched us s) = withSched ts s := rfl

@[simp] theorem withHost_withHost (a b : List HostOp) (s : State) : withHost a (withHost b s) = withHost a s := rfl

@[simp] theorem withSched_self (s : State) : withSched s.sched s = s := rfl

@[simp] theorem withHost_self (s : State) : withHost s.host s = s := rfl

end Sys2Proof.Machine
end

