-- ==== Sys2Proof/Laws/Ops.lean ====
section
/-! SUPPORT. One lemma per shared operation, saying once everything it can do, up to what a step can do to the core. -/

namespace Sys2Proof.Machine

/-- What an accepted command does (spec/45_commands.md rules R191 to R196). -/
def effect (i : Instr) (s : State) : State :=
  match i with
  | .nop => s
  | .keyload => loadKey s
  | .enc len => acceptBlock .encrypt len s
  | .dec len => acceptBlock .decrypt len s
  | .clrerr => clearErr s

/-- Every command is its check followed by its effect or its rejection. -/
theorem exec_eq (i : Instr) (s : State) : exec i s = acceptOrReject (check (.ok i) s) (effect i s) s := by
  cases i <;> rfl

theorem acceptOrReject_next {code : ErrCode} {a s t : State} (h : acceptOrReject code a s = .next t) :
    (code = .none ∧ t = a) ∨ (code ≠ .none ∧ t = reject code s) := by
  unfold acceptOrReject at h
  split at h
  · exact .inl ⟨‹_›, by cases h; rfl⟩
  · exact .inr ⟨‹_›, by cases h; rfl⟩

theorem acceptBlock_cases (m : Mode) (len : BitVec 4) (s : State) :
    (isEndOfStream len = true ∧ acceptBlock m len s = endStream m s) ∨
    (isEndOfStream len = false ∧ acceptBlock m len s = startBlock m (codecRead s.din (lenBytes len)) s) := by
  unfold acceptBlock
  cases isEndOfStream len <;> simp

theorem busCheck_outside_iff (off : Nat) (w : Width) : busCheck off w = .outside ↔ 64 ≤ off := by
  unfold busCheck windowBytes
  split
  · simp [*]
  · split <;> simp_all

theorem busCheck_error_iff (off : Nat) (w : Width) :
    busCheck off w = .error ↔ off < 64 ∧ (w ≠ .w32 ∨ off % 4 ≠ 0) := by
  unfold busCheck windowBytes
  split
  · simp; omega
  · split
    · simp_all
    · simp_all

theorem busCheck_ok_iff (off : Nat) (w : Width) : busCheck off w = .ok ↔ off < 64 ∧ w = .w32 ∧ off % 4 = 0 := by
  unfold busCheck windowBytes
  split
  · simp; omega
  · split
    · simp_all; tauto
    · simp_all

theorem checkedAccess_next {off : Nat} {w : Width} {f o : Host.Outcome State Fault Refusal} {t : State}
    (h : checkedAccess off w f o = .next t) :
    (busCheck off w = .error ∧ f = .next t) ∨ (busCheck off w = .ok ∧ o = .next t) := by
  unfold checkedAccess at h
  split at h
  · cases h
  · exact .inl ⟨‹_›, h⟩
  · exact .inr ⟨‹_›, h⟩

/-- What a host access can do to the core, on the elements of spec/10_state.md rule R20. -/
inductive HostChange (s : State) : State → Prop where
  | same : HostChange s s
  | key (n : Nat) (v : U32) : HostChange s (writeKey n v s)
  | din (n : Nat) (v : U32) : HostChange s (writeDin n v s)
  | rejected (code : ErrCode) (h : code ≠ .none) : HostChange s (reject code s)
  | cleared : HostChange s (clearErr s)
  | loaded (h : s.phase ≠ .active) : HostChange s (loadKey s)
  | ended (m : Mode) (h : s.phase ≠ .active) : HostChange s (endStream m s)
  | started (m : Mode) (b : Block) (h : s.phase ≠ .active) (k : s.keyValid = true) : HostChange s (startBlock m b s)

/-- What one action of any agent can do to the core. -/
inductive CoreChange (s : State) : State → Prop where
  | byHost {t : State} (h : HostChange s t) : CoreChange s t
  | rounded (h : s.phase = .active) (c : s.cnt.toNat < roundCount) : CoreChange s (roundStep s)
  | wroteOutput (h : s.phase = .active) (c : ¬ s.cnt.toNat < roundCount) : CoreChange s (outputStep s)
  | wasReset : CoreChange s (resetCore s)

/-- The agents' data replaced, the core as it was. -/
def withAgents (h : List HostOp) (sc : List Turn) (rp : List Reply) (s : State) : State :=
  { s with host := h, sched := sc, replies := rp }

theorem blockEffect_change (m : Mode) (len : BitVec 4) (s : State) (hp : s.phase ≠ .active)
    (hk : isEndOfStream len = false → s.keyValid = true) : HostChange s (acceptBlock m len s) := by
  rcases acceptBlock_cases m len s with ⟨_, e⟩ | ⟨h, e⟩ <;> rw [e]
  · exact .ended m hp
  · exact .started m _ hp (hk h)

/-- What a command can do to the core. -/
theorem exec_next {i : Instr} {s t : State} (h : exec i s = .next t) : HostChange s t := by
  rw [exec_eq] at h
  rcases acceptOrReject_next h with ⟨hc, rfl⟩ | ⟨hc, rfl⟩
  · cases i with
    | nop => exact .same
    | keyload =>
      simp only [check] at hc
      split at hc
      · cases hc
      · exact .loaded ‹_›
    | enc len =>
      simp only [check] at hc
      split at hc
      · cases hc
      · exact blockEffect_change _ _ _ ‹_› fun he => by split at hc <;> simp_all
    | dec len =>
      simp only [check] at hc
      split at hc
      · cases hc
      · exact blockEffect_change _ _ _ ‹_› fun he => by split at hc <;> simp_all
    | clrerr => exact .cleared
  · exact .rejected _ hc

theorem executeCommand_next {v : U32} {s t : State} (h : executeCommand v s = .next t) : HostChange s t := by
  unfold executeCommand at h
  split at h
  · exact exec_next h
  · rcases acceptOrReject_next h with ⟨hc, _⟩ | ⟨hc, rfl⟩
    · cases hc
    · exact .rejected _ hc

theorem regWrite_next {off : Nat} {v : U32} {s t : State} (h : regWrite off v s = .next t) : HostChange s t := by
  unfold regWrite at h
  cases hs : slotOf off <;> rw [hs] at h
  · cases h; exact .key _ _
  · cases h; exact .din _ _
  · cases h; exact .same
  · exact executeCommand_next h
  · cases h; exact .same
  · cases h; exact .same

/-- A change of the core made on a state whose agents' data differ is a change of the core itself. -/
theorem HostChange.ofAgents {h : List HostOp} {sc : List Turn} {rp : List Reply} {s t : State}
    (c : HostChange (withAgents h sc rp s) t) : ∃ u, HostChange s u ∧ t = withAgents h sc rp u := by
  cases c with
  | same => exact ⟨s, .same, rfl⟩
  | key n v => exact ⟨_, .key n v, rfl⟩
  | din n v => exact ⟨_, .din n v, rfl⟩
  | rejected code hc => exact ⟨_, .rejected code hc, rfl⟩
  | cleared => exact ⟨_, .cleared, rfl⟩
  | loaded hp => exact ⟨_, .loaded hp, rfl⟩
  | ended m hp => exact ⟨_, .ended m hp, rfl⟩
  | started m b hp hk => exact ⟨_, .started m b hp hk, rfl⟩

theorem CoreChange.ofAgents {h : List HostOp} {sc : List Turn} {rp : List Reply} {s t : State}
    (c : CoreChange (withAgents h sc rp s) t) : ∃ u, CoreChange s u ∧ t = withAgents h sc rp u := by
  cases c with
  | byHost c =>
    obtain ⟨u, hu, rfl⟩ := c.ofAgents
    exact ⟨u, .byHost hu, rfl⟩
  | rounded hp hc => exact ⟨_, .rounded hp hc, rfl⟩
  | wroteOutput hp hc => exact ⟨_, .wroteOutput hp hc, rfl⟩
  | wasReset => exact ⟨_, .wasReset, rfl⟩

/-- The only offset of CMD that passes the bus checks. -/
theorem slotOf_cmd_iff (off : Nat) (h : off % 4 = 0) : slotOf off = .cmd ↔ off = 0x20 := by
  unfold slotOf
  constructor
  · intro e
    repeat' split at e
    all_goals first | cases e; done | omega
  · rintro rfl
    rfl

/-- Everything the host's turn can do: touch only the agents' data, write a KEY or DIN register, or execute the command it
writes to CMD. -/
theorem hostTurn_cases {s t : State} (h : hostTurn s = .next t) :
    (∃ hs rp, t = withAgents hs s.sched rp s) ∨
    (∃ n v ops, t = writeKey n v (withHost ops s)) ∨
    (∃ n v ops, t = writeDin n v (withHost ops s)) ∨
    (∃ v ops, s.host = .write 0x20 .w32 v :: ops ∧ executeCommand v (withHost ops s) = .next t) := by
  unfold hostTurn at h
  split at h
  · cases h; exact .inl ⟨s.host, s.replies, rfl⟩
  · rename_i op ops ho
    cases op with
    | read off w => rcases checkedAccess_next h with ⟨_, e⟩ | ⟨_, e⟩ <;> cases e <;> exact .inl ⟨_, _, rfl⟩
    | poll off mask val =>
      rcases checkedAccess_next h with ⟨_, e⟩ | ⟨_, e⟩ <;> cases e
      · exact .inl ⟨_, _, rfl⟩
      · split <;> exact .inl ⟨_, _, rfl⟩
    | write off w v =>
      rcases checkedAccess_next h with ⟨_, e⟩ | ⟨hb, e⟩
      · cases e; exact .inl ⟨_, _, rfl⟩
      · obtain ⟨_, rfl, ha⟩ := (busCheck_ok_iff off w).1 hb
        unfold regWrite at e
        cases hs : slotOf off <;> rw [hs] at e
        · cases e; exact .inr (.inl ⟨_, _, _, rfl⟩)
        · cases e; exact .inr (.inr (.inl ⟨_, _, _, rfl⟩))
        · cases e; exact .inl ⟨_, _, rfl⟩
        · obtain rfl := (slotOf_cmd_iff off ha).1 hs
          exact .inr (.inr (.inr ⟨v, ops, ho, e⟩))
        · cases e; exact .inl ⟨_, _, rfl⟩
        · cases e; exact .inl ⟨_, _, rfl⟩

theorem hostTurn_next {s t : State} (h : hostTurn s = .next t) :
    ∃ u, HostChange s u ∧ ∃ h' sc rp, t = withAgents h' sc rp u := by
  rcases hostTurn_cases h with ⟨hs, rp, rfl⟩ | ⟨n, v, ops, rfl⟩ | ⟨n, v, ops, rfl⟩ | ⟨v, ops, _, e⟩
  · exact ⟨s, .same, _, _, _, rfl⟩
  · exact ⟨_, .key n v, ops, s.sched, s.replies, rfl⟩
  · exact ⟨_, .din n v, ops, s.sched, s.replies, rfl⟩
  · obtain ⟨u, c, rfl⟩ := HostChange.ofAgents (h := ops) (sc := s.sched) (rp := s.replies) (executeCommand_next e)
    exact ⟨u, c, _, _, _, rfl⟩

/-- What the command in a CMD write can do, by command: its effect if its check passed, else its rejection. -/
theorem executeCommand_cases {v : U32} {s t : State} (h : executeCommand v s = .next t) :
    (∃ i, decode v = .ok i ∧ check (.ok i) s = .none ∧ t = effect i s) ∨
    (∃ code, code ≠ .none ∧ check (decode v) s = code ∧ t = reject code s) := by
  unfold executeCommand at h
  split at h
  · rename_i i hd
    rw [exec_eq] at h
    rcases acceptOrReject_next h with ⟨hc, rfl⟩ | ⟨hc, rfl⟩
    · exact .inl ⟨i, hd, hc, rfl⟩
    · exact .inr ⟨_, hc, by rw [hd], rfl⟩
  · rename_i e hd
    rcases acceptOrReject_next h with ⟨hc, _⟩ | ⟨hc, rfl⟩
    · cases hc
    · exact .inr ⟨_, hc, by rw [hd], rfl⟩

theorem engineTurn_cases (s : State) :
    (s.phase ≠ .active ∧ engineTurn s = s) ∨
    (s.phase = .active ∧ s.cnt.toNat < roundCount ∧ engineTurn s = roundStep s) ∨
    (s.phase = .active ∧ ¬ s.cnt.toNat < roundCount ∧ engineTurn s = outputStep s) := by
  unfold engineTurn engineStep
  split
  · split
    · exact .inr (.inl ⟨‹_›, ‹_›, rfl⟩)
    · exact .inr (.inr ⟨‹_›, ‹_›, rfl⟩)
  · exact .inl ⟨‹_›, rfl⟩

theorem takeTurn_next {x : Turn} {s t : State} (h : takeTurn x s = .next t) :
    ∃ u, CoreChange s u ∧ ∃ h' sc rp, t = withAgents h' sc rp u := by
  cases x with
  | host =>
    obtain ⟨u, c, e⟩ := hostTurn_next h
    exact ⟨u, .byHost c, e⟩
  | engine =>
    cases h
    rcases engineTurn_cases s with ⟨_, e⟩ | ⟨hp, hc, e⟩ | ⟨hp, hc, e⟩ <;> rw [e]
    · exact ⟨s, .byHost .same, s.host, s.sched, s.replies, rfl⟩
    · exact ⟨_, .rounded hp hc, s.host, s.sched, s.replies, rfl⟩
    · exact ⟨_, .wroteOutput hp hc, s.host, s.sched, s.replies, rfl⟩
  | reset => cases h; exact ⟨_, .wasReset, s.host, s.sched, s.replies, rfl⟩
  | hostInReset => cases h
  | secondHost => cases h

/-- Everything a step that answers a next state can have done to the core; the agents' data apart. -/
theorem step_next {s t : State} (h : step s = .next t) :
    ∃ u, CoreChange s u ∧ ∃ h' sc rp, t = withAgents h' sc rp u := by
  obtain ⟨u, c, h1, s1, r1, rfl⟩ := takeTurn_next h
  obtain ⟨w, c', rfl⟩ := CoreChange.ofAgents (h := s.host) (sc := s.sched.tail) (rp := s.replies) c
  exact ⟨w, c', h1, s1, r1, rfl⟩

end Sys2Proof.Machine
end

