-- ==== Sys2Proof/Laws/PerInstr.lean ====
section
/-! SUPPORT. Per-instruction family `RowMatch`: the word of a command selects the command's row of the opcode map
(spec/30_encoding.md rule R83). -/

namespace Sys2Proof.Laws.RowMatch

/-- The encoding of `i` selects `i`'s row. -/
def Statement (i : Instr) : Prop := encode i &&& rowMask i = rowMatch i

theorem nop : Statement .nop := by unfold Statement; decide

theorem keyload : Statement .keyload := by unfold Statement; decide

theorem enc (len : BitVec 4) : Statement (.enc len) := by
  revert len
  unfold Statement
  decide

theorem dec (len : BitVec 4) : Statement (.dec len) := by
  revert len
  unfold Statement
  decide

theorem clrerr : Statement .clrerr := by unfold Statement; decide

end Sys2Proof.Laws.RowMatch
end

