-- ==== Sys2Proof/Tests/Slice0.lean ====
section
/-! SUPPORT. Tests on the vectors of spec/95_test_vectors.md, and a witness for the hypotheses of every obligation. -/

namespace Sys2Proof.Tests

open Sys2Proof Sys2Proof.Machine

/-- The outcome is a next state with property `p`. -/
def nextIs (o : Host.Outcome State Fault Refusal) (p : State → Bool) : Bool :=
  match o with
  | .next t => p t
  | .fault _ => false
  | .refused _ => false

/-- The key words of key A (spec/95_test_vectors.md). -/
def kwA : Block := #v[0x0123, 0x4567, 0x89AB, 0xCDEF]

/-- Key A loaded, Idle, and DIN = 01 23 45 67 89 AB CD EF. -/
def keyed : State :=
  { State.reset with
    key := #v[0x01, 0x23, 0x45, 0x67, 0x89, 0xAB, 0xCD, 0xEF, 0x10, 0x11, 0x12, 0x13, 0x14, 0x15, 0x16, 0x17]
    kw := kwA, ks := 0x0123456789ABCDEF, keyValid := true
    din := #v[0x01, 0x23, 0x45, 0x67, 0x89, 0xAB, 0xCD, 0xEF] }

/-- A block in progress in mode `m` with `n` rounds done. -/
def busy (m : Mode) (n : BitVec 5) : State := { keyed with phase := .active, mode := m, cnt := n }

/-- The state with one host access and nothing else waiting. -/
def hosting (op : HostOp) (s : State) : State := { s with host := [op] }

/-- The state with one turn in the order. -/
def turning (t : Turn) (s : State) : State := { s with sched := [t] }

/-! Well-formedness: an ill-formed term for each check (rule R87). -/

theorem test_wellFormed_enc_refuses_nine : (Instr.enc 9).wellFormed = false := by decide
theorem test_wellFormed_dec_refuses_fifteen : (Instr.dec 15).wellFormed = false := by decide
theorem test_wellFormed_accepts : (Instr.enc 8).wellFormed = true ∧ (Instr.dec 0).wellFormed = true := by decide
theorem test_assemble_refuses : assemble (.enc 9) = none ∧ assemble .encDefault = some 0x00000802 := by decide

/-! Decoding: each row's word written out bit by bit from rules R80 and R83. -/

theorem test_decode_nop : decode 0b00000000000000000000_0000_00000000 = .ok .nop := by rfl
theorem test_decode_keyload : decode 0b00000000000000000000_0000_00000001 = .ok .keyload := by rfl
theorem test_decode_enc : decode 0b00000000000000000000_0101_00000010 = .ok (.enc 5) := by rfl
theorem test_decode_dec : decode 0b00000000000000000000_1000_00000011 = .ok (.dec 8) := by rfl
theorem test_decode_clrerr : decode 0b00000000000000000000_0000_00000100 = .ok .clrerr := by rfl
theorem test_decode_rejects_by_name :
    decode 0x00001002 = .error .rsvdNotZero ∧ decode 0x00000104 = .error .lenNotZero ∧
    decode 0x000000FF = .error .reservedOp := ⟨rfl, rfl, rfl⟩
theorem test_tableWord_first_step : decodeTableWord 32 0x00000803 = some (.dec 8) := by decide
theorem test_withFetchWord_runs : nextIs (step (State.reset.withFetchWord 32 0x00000001)) (fun t => t.keyValid) = true := by
  decide

/-! Commands (section 2.10). -/

/-- V70. -/
theorem test_nop_status : nextIs (executeCommand 0x00000000 State.reset) (fun t => statusWord t == 0x00000000) = true := by
  decide
/-- V78. -/
theorem test_keyload_zero_key :
    nextIs (executeCommand 0x00000001 State.reset) (fun t => statusWord t == 0x00000004) = true := by decide
/-- V79. -/
theorem test_keyload_busy :
    nextIs (executeCommand 0x00000001 (busy .encrypt 0)) (fun t => statusWord t == 0x00000105) = true := by decide
/-- V71. -/
theorem test_enc_nokey : nextIs (executeCommand 0x00000802 State.reset) (fun t => statusWord t == 0x00000200) = true := by
  decide
/-- V74. -/
theorem test_enc_badlen : nextIs (executeCommand 0x00000902 State.reset) (fun t => statusWord t == 0x00000300) = true := by
  decide
/-- V73. -/
theorem test_dec_end_of_stream :
    nextIs (executeCommand 0x00000003 State.reset) (fun t => statusWord t == 0x00000018) = true := by decide
/-- V29e. -/
theorem test_dec_whitens :
    whitenInDec #v[0x8577, 0x16CA, 0x2BF0, 0xCD44] kwA = #v[0xA25B, 0x00AB, 0x8454, 0x53AD] := by decide
/-- V81. -/
theorem test_clrerr_busy :
    nextIs (executeCommand 0x00000004 { busy .encrypt 3 with err := .badlen }) (fun t => statusWord t == 0x00030005) = true := by
  decide
/-- V83. -/
theorem test_clrerr_with_len :
    nextIs (executeCommand 0x00000104 { State.reset with err := .nokey }) (fun t => t.err == .nokey) = true := by decide

/-! The window (V84 to V89). -/

/-- V84. -/
theorem test_misaligned_write :
    nextIs (step (hosting (.write 0x22 .w32 0x00000001) State.reset))
      (fun t => t.replies == [.busError 0x22] && !t.keyValid) = true := by decide
/-- V85. -/
theorem test_narrow_read :
    nextIs (step (hosting (.read 0x24 .w8) State.reset)) (fun t => t.replies == [.busError 0x24]) = true := by decide
/-- V86. -/
theorem test_key_write_and_read :
    nextIs (regWrite 0x00 0x01234567 State.reset)
      (fun t => t.key[0] == 0x01 && t.key[3] == 0x67 && regRead 0x00 t == 0x00000000) = true := by decide
/-- V87. -/
theorem test_status_write_ignored :
    nextIs (regWrite 0x24 0xFFFFFFFF keyed) (fun t => decide (t = keyed)) = true := by decide
/-- V89. -/
theorem test_status_after_dec :
    statusWord { keyed with phase := .done, mode := .decrypt, cnt := 16 } = 0x0010000E := by decide
/-- V63. -/
theorem test_dout_words :
    regRead 0x18 { keyed with dout := codecWrite #v[0x8577, 0x16CA, 0x2BF0, 0xCD44] } = 0x857716CA := by decide

/-! The datapath (sections 2.1 to 2.9). -/

/-- V5. -/
theorem test_deriveSubkeys :
    deriveSubkeys 0 0x0123456789ABCDEF =
      (#v[0xDE, 0x37, 0x5E, 0x9A, 0xE0, 0x7B, 0xE6, 0xAB, 0x02, 0xBC, 0x6F, 0xBC], 0x3456789ABCDEF012) := by decide
/-- V6, an odd round. -/
theorem test_deriveSubkeys_odd :
    (deriveSubkeys 1 0x3456789ABCDEF012).1 =
      #v[0x35, 0xE2, 0xB3, 0x45, 0x57, 0x26, 0x3C, 0x56, 0x79, 0x6A, 0xC4, 0x67] := by decide
/-- V17. -/
theorem test_deriveSubkeysInv :
    deriveSubkeysInv 0 0x3456789ABCDEF012 =
      (#v[0xDE, 0x37, 0x5E, 0x9A, 0xE0, 0x7B, 0xE6, 0xAB, 0x02, 0xBC, 0x6F, 0xBC], 0x0123456789ABCDEF) := by decide
/-- V20 and V25. -/
theorem test_mixG :
    mixG 0x1234 0x01 0x02 0x03 0x04 = 0x3520 ∧ mixG 0xABCD 0xDE 0x37 0x5E 0x9A = 0xA47C := by decide
/-- V28e. -/
theorem test_roundF :
    roundF 0x1234 0x5678 #v[1, 2, 3, 4, 5, 6, 7, 8, 9, 10, 11, 12] = (0x3072, 0xEE70) := by decide
/-- V28c, wrapping twice. -/
theorem test_roundF_wraps :
    roundF 0x00FF 0x00FF #v[0, 0, 0, 0, 0, 0, 0, 0, 0xFF, 0xFF, 0xFF, 0xFF] = (0xFFFC, 0xFFFC) := by decide
/-- V29a. -/
theorem test_mixForward :
    mixForward #v[1, 2, 3, 4, 5, 6, 7, 8, 9, 10, 11, 12] #v[0x1234, 0x5678, 0x9ABC, 0xDEF0]
      = #v[0x5567, 0x5391, 0x1234, 0x5678] := by decide
/-- V29b. -/
theorem test_mixInverse :
    mixInverse #v[1, 2, 3, 4, 5, 6, 7, 8, 9, 10, 11, 12] #v[0x5567, 0x5391, 0x1234, 0x5678]
      = #v[0x1234, 0x5678, 0x9ABC, 0xDEF0] := by decide
/-- V30. -/
theorem test_whitenOutEnc :
    whitenOutEnc #v[0xA25B, 0x00AB, 0x8454, 0x53AD] kwA = #v[0x8577, 0x16CA, 0x2BF0, 0xCD44] := by decide
/-- V46. -/
theorem test_encryptBlock : encryptBlock kwA kwA = #v[0x8577, 0x16CA, 0x2BF0, 0xCD44] := by decide +kernel
/-- V60. -/
theorem test_decryptBlock : decryptBlock #v[0, 0, 0, 0] kwA = #v[0x58EA, 0x8671, 0xB723, 0xE0FB] := by decide +kernel
/-- S1 and rule R172. -/
theorem test_codecRead_pads :
    codecRead #v[0x41, 0x42, 0x43, 0x44, 0x45, 0x99, 0x99, 0x99] 5 = #v[0x4142, 0x4344, 0x4500, 0x0000] := by decide
/-- Trace 2.6, step 1. -/
theorem test_roundStep :
    (engineTurn { busy .encrypt 1 with r := #v[0x5398, 0xDF9D, 0, 0], ks := 0x3456789ABCDEF012 }).r
      = #v[0x28B8, 0xDDF6, 0x5398, 0xDF9D] := by decide
/-- Trace 2.7, step 0. -/
theorem test_roundStep_decrypt :
    (engineTurn { busy .decrypt 0 with r := #v[0xA25B, 0x00AB, 0x8454, 0x53AD] }).r
      = #v[0x8454, 0x53AD, 0xD875, 0xFA4B] := by decide
/-- Trace 2.6, the output step. -/
theorem test_outputStep :
    (engineTurn { busy .encrypt 16 with r := #v[0xA25B, 0x00AB, 0x8454, 0x53AD] }).dout
      = #v[0x85, 0x77, 0x16, 0xCA, 0x2B, 0xF0, 0xCD, 0x44] := by decide

/-! Witnesses: for every obligation with hypotheses, a concrete state and operands that meet them, clause by clause. -/

theorem test_witness_DecodeFollowsOpcodeMap :
    (0x00000F02 : U32) &&& 0xFFFFF0FF = 0x00000002 ∧ (0x00000003 : U32) &&& 0xFFFFF0FF = 0x00000003 ∧
    (0x00000005 : U32) &&& 0xFFFFF0FF ≠ 0x00000002 := by decide
theorem test_witness_MalformedWordsRejected :
    (0x00001002 : U32).extractLsb' 12 20 ≠ 0 ∧ (0x00000101 : U32).extractLsb' 8 4 ≠ 0 ∧
    (0x00000101 : U32).extractLsb' 0 8 ≠ 0x02 ∧ (0x00000101 : U32).extractLsb' 0 8 ≠ 0x03 := by decide
theorem test_witness_ReservedOpsRejected :
    0x05 ≤ ((0x00000005 : U32).extractLsb' 0 8).toNat ∧ 0x05 ≤ ((0x000000FF : U32).extractLsb' 0 8).toNat := by decide
theorem test_witness_NopHasNoEffect : (0x00000100 : U32).extractLsb' 0 8 = 0x00 ∧ (0x00000100 : U32) ≠ 0x00000000 := by decide
theorem test_witness_KeyloadLoadsKey :
    State.reset.phase ≠ .active ∧ (busy .encrypt 0).phase = .active ∧
    (0x80000001 : U32).extractLsb' 0 8 = 0x01 ∧ (0x80000001 : U32) ≠ 0x00000001 := by decide
theorem test_witness_AcceptBlockWritesState :
    keyed.phase ≠ .active ∧ keyed.keyValid = true ∧ (0 : BitVec 4) = 0 ∧
    1 ≤ (1 : BitVec 4).toNat ∧ (1 : BitVec 4).toNat ≤ 8 ∧ 1 ≤ (8 : BitVec 4).toNat ∧ (8 : BitVec 4).toNat ≤ 8 := by decide
theorem test_witness_ChecksInPriorityOrder_word : decode 0x00000005 = .error .reservedOp := rfl
theorem test_witness_ChecksInPriorityOrder :
    (busy .decrypt 16).phase = .active ∧ State.reset.phase ≠ .active ∧ State.reset.keyValid = false ∧
    keyed.phase ≠ .active ∧ keyed.keyValid = true ∧ 8 < (9 : BitVec 4).toNat ∧ 8 < (15 : BitVec 4).toNat ∧
    1 ≤ (1 : BitVec 4).toNat ∧ (8 : BitVec 4).toNat ≤ 8 := by decide
theorem test_witness_RejectionOnlySetsErr : check (decode 0x00000005) State.reset ≠ .none := by decide
theorem test_witness_ClrerrClearsErr :
    (0x00000104 : U32).extractLsb' 0 8 = 0x04 ∧ (0x00000104 : U32) ≠ 0x00000004 := by decide
theorem test_witness_CommandFrame :
    (∃ t, exec (.enc 8) keyed = .next t) ∧ Instr.enc 8 ≠ .keyload ∧ Instr.enc 8 ≠ .clrerr ∧
    check (.ok (.enc 8)) keyed = .none ∧ keyed.err = .none := ⟨⟨_, rfl⟩, by decide⟩
theorem test_witness_CommandFrame_not_block :
    (∃ t, exec .keyload keyed = .next t) ∧ ∀ len, Instr.keyload ≠ .enc len ∧ Instr.keyload ≠ .dec len :=
  ⟨⟨_, rfl⟩, fun _ => ⟨Instr.noConfusion, Instr.noConfusion⟩⟩
theorem test_witness_RegReadFollowsMap :
    (hosting (.read 0x3C .w32) keyed).host = .read 0x3C .w32 :: [] ∧ 0x3C < 64 ∧ 0x3C % 4 = 0 ∧ 0x28 ≤ 0x3C := by decide
theorem test_witness_KeyWriteSetsLanes : 0 < 4 ∧ 3 < 4 ∧ 15 < 16 ∧ 15 / 4 = 3 := by decide
theorem test_witness_DinWriteThenRead : 0 < 2 ∧ 1 < 2 ∧ 7 < 8 ∧ 7 / 4 = 1 := by decide
theorem test_witness_DoutReadsOutputWords :
    ∃ o : Block, o = whitenOut keyed.mode keyed.r keyed.kw := ⟨_, rfl⟩
theorem test_witness_ReservedOffsetsInert :
    0x28 ≤ 0x3C ∧ 0x3C ≤ 0x3C ∧ 0x28 % 4 = 0 ∧ (hosting (.read 0x28 .w32) keyed).host = .read 0x28 .w32 :: [] ∧
    (hosting (.write 0x3C .w32 1) keyed).host = .write 0x3C .w32 1 :: [] := by decide
theorem test_witness_BusErrorChangesNothing :
    (hosting (.write 0x20 .w64 1) keyed).host = .write 0x20 .w64 1 :: [] ∧
    (hosting (.read 63 .w32) keyed).host = .read 63 .w32 :: [] ∧ Width.w64 ≠ .w32 ∧ 63 % 4 ≠ 0 ∧ 63 < 64 := by decide
theorem test_witness_OutsideWindowFaults :
    (hosting (.write 64 .w32 1) keyed).host = .write 64 .w32 1 :: [] ∧
    (hosting (.read 64 .w8) keyed).host = .read 64 .w8 :: [] ∧
    (hosting (.poll 67 1 0) keyed).host = .poll 67 1 0 :: [] ∧ 64 ≤ 64 ∧ 64 ≤ 67 := by decide
theorem test_witness_CmdWriteIsOneCommand :
    (hosting (.write 0x20 .w32 1) keyed).host = .write 0x20 .w32 1 :: [] ∧
    (hosting (.read 0x20 .w32) keyed).host = .read 0x20 .w32 :: [] := by decide
theorem test_witness_PollRepeatsUntilEqual :
    (hosting (.poll 0x24 1 0) keyed).host = .poll 0x24 1 0 :: [] ∧ 0x24 < 64 ∧ 0x24 % 4 = 0 ∧
    (hosting (.poll 63 1 0) keyed).host = .poll 63 1 0 :: [] ∧ 63 < 64 ∧ 63 % 4 ≠ 0 ∧
    regRead 0x24 (hosting (.poll 0x24 1 0) keyed) &&& 1 = 0 ∧
    regRead 0x24 (hosting (.poll 0x24 1 0) (busy .encrypt 0)) &&& 1 ≠ 0 := by decide
theorem test_witness_StepRunsDecodedCommand :
    nextTurn (hosting (.write 0x20 .w32 0x00000802) keyed) = .host ∧
    (hosting (.write 0x20 .w32 0x00000802) keyed).host = .write 0x20 .w32 0x00000802 :: [] := by decide
theorem test_witness_HiddenStateUnreadable :
    keyed.din = { keyed with ks := 0, kw := #v[1, 2, 3, 4] }.din ∧ keyed ≠ { keyed with ks := 0, kw := #v[1, 2, 3, 4] } ∧
    keyed.phase = { keyed with ks := 0, kw := #v[1, 2, 3, 4] }.phase := by decide
/-- Key A with bytes 8 to 15 replaced by 0xEE (vector V61). -/
def keyTailed : State :=
  { keyed with
    key := #v[0x01, 0x23, 0x45, 0x67, 0x89, 0xAB, 0xCD, 0xEF, 0xEE, 0xEE, 0xEE, 0xEE, 0xEE, 0xEE, 0xEE, 0xEE] }
theorem test_witness_KeyTailHasNoEffect :
    SameButKeyTail keyed keyTailed ∧ keyed ≠ keyTailed ∧ (∃ t, step keyed = .next t) :=
  ⟨⟨by decide, by decide⟩, by decide, ⟨_, rfl⟩⟩
theorem test_witness_KeyTailHasNoEffect_stops :
    SameButKeyTail (hosting (.read 64 .w32) keyed) (hosting (.read 64 .w32) keyTailed) ∧
    step (hosting (.read 64 .w32) keyed) = .fault (.outsideWindow 64) ∧
    step (turning .secondHost keyed) = .refused .secondHost := ⟨⟨by decide, by decide⟩, rfl, rfl⟩
theorem test_witness_EngineRoundOrder :
    (busy .encrypt 0).phase = .active ∧ (busy .encrypt 15).cnt.toNat < 16 ∧ (busy .encrypt 15).mode = .encrypt ∧
    (busy .decrypt 15).mode = .decrypt := by decide
theorem test_witness_EngineOutputStep :
    (busy .encrypt 16).phase = .active ∧ (busy .encrypt 16).cnt = 16 ∧ (busy .encrypt 16).mode = .encrypt ∧
    (busy .decrypt 16).mode = .decrypt ∧ keyed.phase ≠ .active := by decide
theorem test_witness_BlockTakesSeventeenSteps : (busy .encrypt 0).phase = .active ∧ (busy .encrypt 0).cnt = 0 := by decide
theorem test_witness_HostCannotDisturbBlock :
    (hosting (.write 0x20 .w32 0x00000001) (busy .encrypt 5)).phase = .active ∧
    ∃ t, takeTurn .host (hosting (.write 0x20 .w32 0x00000001) (busy .encrypt 5)) = .next t := ⟨by decide, ⟨_, rfl⟩⟩
/-- A block just accepted: DIN of key A whitens to zero. -/
def accepted : State := { busy .encrypt 0 with host := [.write 0x10 .w32 0xFFFFFFFF] }
theorem test_witness_BlockResultUnderAnyInterleaving :
    accepted.phase = .active ∧ accepted.cnt = 0 ∧ accepted.ks = k64 accepted.kw ∧
    accepted.r = whitenIn accepted.mode kwA accepted.kw ∧
    (.host :: List.replicate 16 .engine).count Turn.engine = 16 := by decide
theorem test_witness_BlockResultUnderAnyInterleaving_runs :
    (∀ x ∈ Turn.host :: List.replicate 16 .engine, x = .host ∨ x = .engine) ∧
    ∃ t, runTurns ((.host :: List.replicate 16 .engine) ++ [.engine]) accepted = .next t := ⟨by decide, ⟨_, rfl⟩⟩
theorem test_witness_BlockOperationComputesBlockFunction :
    keyed.phase ≠ .active ∧ keyed.keyValid = true ∧ keyed.ks = k64 keyed.kw ∧
    1 ≤ (1 : BitVec 4).toNat ∧ (8 : BitVec 4).toNat ≤ 8 := by decide
theorem test_witness_indices : 3 < 4 ∧ 15 < 16 ∧ 11 < 12 ∧ 1 ≤ 1 ∧ 8 ≤ 8 := by decide
theorem test_witness_StepKeepsInvariants : Inv (busy .decrypt 0) ∧ ∃ t, step (busy .decrypt 0) = .next t :=
  ⟨⟨by decide, by decide, by decide, by decide, by decide⟩, ⟨_, rfl⟩⟩
theorem test_witness_KeyValidLifecycle_clears :
    ∃ t, step (turning .reset keyed) = .next t ∧ keyed.keyValid = true ∧ t.keyValid = false ∧
      nextTurn (turning .reset keyed) = .reset := ⟨_, rfl, by decide⟩
theorem test_witness_KeyValidLifecycle_sets :
    ∃ t, step (hosting (.write 0x20 .w32 1) State.reset) = .next t ∧ State.reset.keyValid = false ∧ t.keyValid = true ∧
      nextTurn (hosting (.write 0x20 .w32 1) State.reset) = .host ∧ State.reset.phase ≠ .active ∧ decode 1 = .ok .keyload :=
  ⟨_, rfl, by decide, by decide, by decide, by decide, rfl⟩
theorem test_witness_KeyValidLifecycle_rejects :
    ∃ t, step (hosting (.write 0x20 .w32 0x00000103) State.reset) = .next t ∧
      nextTurn (hosting (.write 0x20 .w32 0x00000103) State.reset) = .host ∧ decode 0x00000103 = .ok (.dec 1) :=
  ⟨_, rfl, by decide, rfl⟩
theorem test_witness_DoutWrittenOnlyByOutputStep :
    ∃ t, step (busy .encrypt 16) = .next t ∧ t.dout ≠ (busy .encrypt 16).dout := ⟨_, rfl, by decide⟩
/-- A block done, its output in DOUT. -/
def finished : State := { keyed with phase := .done, cnt := 16, dout := #v[0x85, 0x77, 0x16, 0xCA, 0x2B, 0xF0, 0xCD, 0x44] }
theorem test_witness_DoutWrittenOnlyByOutputStep_reset :
    ∃ t, step (turning .reset finished) = .next t ∧ t.dout ≠ (turning .reset finished).dout ∧
      nextTurn (turning .reset finished) = .reset := ⟨_, rfl, by decide⟩
theorem test_witness_FirstErrorIsKept :
    ∃ t, step (hosting (.write 0x20 .w32 4) { keyed with err := .busy }) = .next t ∧ t.err ≠ .busy := ⟨_, rfl, by decide⟩
theorem test_witness_WorkingRegisterWriters_accept :
    ∃ t, step (hosting (.write 0x20 .w32 0x00000102) keyed) = .next t ∧ t.r ≠ keyed.r := ⟨_, rfl, by decide⟩
theorem test_witness_WorkingRegisterWriters_round :
    ∃ t, step (busy .encrypt 0) = .next t ∧ t.r ≠ (busy .encrypt 0).r := ⟨_, rfl, by decide⟩
theorem test_witness_KeyWordWriters :
    ∃ t, step (hosting (.write 0x20 .w32 1) { keyed with kw := #v[0, 0, 0, 0] }) = .next t ∧ t.kw ≠ #v[0, 0, 0, 0] :=
  ⟨_, rfl, by decide⟩
theorem test_witness_ForbiddenTurnsRefused :
    (turning .hostInReset keyed).sched = .hostInReset :: [] ∧ (turning .secondHost keyed).sched = .secondHost :: [] := by decide
theorem test_witness_UnorderedTurnServesEngine :
    (busy .encrypt 0).sched = [] ∧ (busy .encrypt 0).phase = .active ∧ keyed.sched = [] ∧ RunEnded keyed := by decide
theorem test_witness_SetKeyLoadsKey :
    keyed.phase ≠ .active ∧
    { keyed with host := setKey 1 2 3 4 ++ [readReg 0x24] }.host = setKey 1 2 3 4 ++ [readReg 0x24] := by decide
/-- Rule R89's SETKEY of key A ends with key A's words. -/
theorem test_setKey :
    nextIs (runTurns [.host, .host, .host, .host, .host]
      { State.reset with host := setKey 0x01234567 0x89ABCDEF 0x10111213 0x14151617 })
      (fun t => t.kw == kwA && t.ks == 0x0123456789ABCDEF && t.host == []) = true := by decide

end Sys2Proof.Tests
end

section
/-! SUPPORT. The path of a command word from the host's turn to `exec` (spec/20_memory.md rule R67, spec/45_commands.md rule
R190): one equation per layer it passes through, and the statements about it. -/

namespace Sys2Proof.Machine

theorem executeCommand_of_decode_ok {v : U32} {i : Instr} (h : decode v = .ok i) (s : State) :
    executeCommand v s = exec i s := by
  simp only [executeCommand, h]

theorem checkedAccess_of_ok {off : Nat} {w : Width} (h : busCheck off w = .ok)
    (failed ok : Host.Outcome State Fault Refusal) : checkedAccess off w failed ok = ok := by
  simp only [checkedAccess, h]

theorem regWrite_cmd (v : U32) (s : State) : regWrite 0x20 v s = executeCommand v s := rfl

theorem hostTurn_of_host_cons {s : State} {op : HostOp} {ops : List HostOp} (h : s.host = op :: ops) :
    hostTurn s = hostAccess op (withHost ops s) := by
  simp only [hostTurn, h]

/-- A 32-bit write to CMD passes the bus checks and is the execution of its word (spec/10_state.md rule R40). -/
theorem hostTurn_of_cmd_write {s : State} {v : U32} {ops : List HostOp} (h : s.host = .write 0x20 .w32 v :: ops) :
    hostTurn s = executeCommand v (withHost ops s) := by
  have hbus : busCheck 0x20 .w32 = .ok := (busCheck_ok_iff 0x20 .w32).2 ⟨by decide, rfl, by decide⟩
  calc hostTurn s
      = hostWrite 0x20 .w32 v (withHost ops s) := hostTurn_of_host_cons h
    _ = regWrite 0x20 v (withHost ops s) := checkedAccess_of_ok hbus _ _
    _ = executeCommand v (withHost ops s) := regWrite_cmd v _

theorem step_of_nextTurn {s : State} {t : Turn} (h : nextTurn s = t) : step s = takeTurn t (afterTurn s) := by
  rw [step, h]

/-- Settles O24: the host's turn reaches `executeCommand` through the bus checks, and the word decodes to `i`. -/
theorem stepRunsDecodedCommand : Obligations.StepRunsDecodedCommand := by
  unfold Obligations.StepRunsDecodedCommand
  intro s v i rest hturn hhost hdecode
  have hafter : (afterTurn s).host = .write 0x20 .w32 v :: rest := hhost
  calc step s
      = hostTurn (afterTurn s) := step_of_nextTurn hturn
    _ = executeCommand v (withHost rest (afterTurn s)) := hostTurn_of_cmd_write hafter
    _ = exec i (withHost rest (afterTurn s)) := executeCommand_of_decode_ok hdecode _

end Sys2Proof.Machine
end

section
/-! SUPPORT. The key state of a block in progress, round by round, and the invariants of spec/10_state.md rule R45: which fields
they read, that every change of the core keeps them, and the statements about them. -/

namespace Sys2Proof.Machine

/-- Each slot turns the key state left by one bit, whatever the round reads (spec/40_key_schedule.md rule R102). -/
theorem foldl_deriveSlot_snd (r : Nat) (slots : List Nat) (acc : SubkeySet × U64) :
    (slots.foldl (deriveSlot r) acc).2 = rotl64 acc.2 slots.length := by
  induction slots generalizing acc with
  | nil => exact (rotl64_whole acc.2 0).symm
  | cons j slots ih =>
    calc ((j :: slots).foldl (deriveSlot r) acc).2
        = rotl64 (rotl64 acc.2 1) slots.length := ih (deriveSlot r acc j)
      _ = rotl64 acc.2 (slots.length + 1) := by rw [rotl64_rotl64, Nat.add_comm]

/-- Each slot of the inverse derivation turns it back (spec/40_key_schedule.md rule R108). -/
theorem foldl_deriveSlotInv_snd (r : Nat) (slots : List Nat) (acc : SubkeySet × U64) :
    (slots.foldl (deriveSlotInv r) acc).2 = rotr64 acc.2 slots.length := by
  induction slots generalizing acc with
  | nil => exact (rotr64_whole acc.2 0).symm
  | cons j slots ih =>
    calc ((j :: slots).foldl (deriveSlotInv r) acc).2
        = rotr64 (rotr64 acc.2 1) slots.length := ih (deriveSlotInv r acc j)
      _ = rotr64 acc.2 (slots.length + 1) := by rw [rotr64_rotr64, Nat.add_comm]

theorem deriveSubkeys_snd (r : Nat) (s : U64) : (deriveSubkeys r s).2 = rotl64 s subkeyCount := by
  simp only [deriveSubkeys, foldl_deriveSlot_snd, List.length_range]

theorem deriveSubkeysInv_snd (r : Nat) (s : U64) : (deriveSubkeysInv r s).2 = rotr64 s subkeyCount := by
  simp only [deriveSubkeysInv, foldl_deriveSlotInv_snd, List.length_reverse, List.length_range]

@[simp] theorem blockKeyState_zero (m : Mode) (kw : Block) : blockKeyState m 0 kw = k64 kw := by
  cases m
  · exact rotl64_whole _ 0
  · exact rotr64_whole _ 0

/-- Sixteen rounds of twelve turns are three whole turns (spec/40_key_schedule.md rule R106). -/
theorem blockKeyState_roundCount (m : Mode) (kw : Block) : blockKeyState m roundCount kw = k64 kw := by
  cases m
  · exact rotl64_whole _ 3
  · exact rotr64_whole _ 3

/-- A round takes the key state of `n` rounds to that of `n + 1` (spec/40_key_schedule.md rules R105 and R109). -/
theorem roundOf_blockKeyState (m : Mode) (n : Nat) (r kw : Block) :
    (roundOf m n (r, blockKeyState m n kw)).2 = blockKeyState m (n + 1) kw := by
  cases m with
  | encrypt =>
    simp only [roundOf, roundFwd, blockKeyState, deriveSubkeys_snd, rotl64_rotl64, Nat.mul_succ]
  | decrypt =>
    simp only [roundOf, decryptRound, roundInv, blockKeyState, deriveSubkeysInv_snd, rotr64_rotr64, Nat.mul_succ]

/-- The round counter does not wrap while rounds are left. -/
theorem cnt_succ_toNat {c : BitVec 5} (h : c.toNat < roundCount) : (c + 1).toNat = c.toNat + 1 := by
  rw [roundCount] at h
  bv_omega

/-- `Inv` reads PHASE, KEYVALID, CNT, MODE, KS and KW, and no other element. -/
theorem Inv.congr {s t : State} (hs : Inv s) (hphase : t.phase = s.phase := by simp)
    (hvalid : t.keyValid = s.keyValid := by simp) (hcnt : t.cnt = s.cnt := by simp)
    (hmode : t.mode = s.mode := by simp) (hks : t.ks = s.ks := by simp) (hkw : t.kw = s.kw := by simp) : Inv t := by
  obtain ⟨hkeyed, hdone, hunkeyed, hquiet, hactive⟩ := hs
  constructor <;> rw [hphase]
  · rwa [hvalid, hcnt]
  · rwa [hcnt]
  · rwa [hvalid, hks, hkw]
  · rwa [hvalid, hks, hkw]
  · rwa [hks, hmode, hcnt, hkw]

/-- Settles O50. -/
theorem resetMeetsInvariants : Obligations.ResetMeetsInvariants where
  active_keyed := by decide
  done_count := by decide
  unkeyed := by decide
  keyed_quiet := by decide
  keyed_active := by decide

theorem Inv.loadKey {s : State} (hp : s.phase ≠ .active) (hs : Inv s) : Inv (loadKey s) where
  active_keyed h := absurd h hp
  done_count h := hs.done_count h
  unkeyed h := by cases h
  keyed_quiet _ _ := rfl
  keyed_active h := absurd h hp

/-- A command that leaves PHASE Idle keeps `Inv`: the key elements stay as they were outside the block. -/
theorem Inv.endStream {s : State} (m : Mode) (hp : s.phase ≠ .active) (hs : Inv s) : Inv (endStream m s) where
  active_keyed h := by cases h
  done_count h := by cases h
  unkeyed h := ⟨by simp, (hs.unkeyed h).2⟩
  keyed_quiet h _ := hs.keyed_quiet h hp
  keyed_active h := by cases h

/-- A block starts with no round done, so with the key state that the quiet core held. -/
theorem Inv.startBlock {s : State} (m : Mode) (b : Block) (hp : s.phase ≠ .active) (hk : s.keyValid = true)
    (hs : Inv s) : Inv (startBlock m b s) where
  active_keyed _ := ⟨hk, by simp⟩
  done_count h := by cases h
  unkeyed h := by simp [hk] at h
  keyed_quiet _ h := absurd rfl h
  keyed_active _ := by
    rw [startBlock_ks, startBlock_cnt, startBlock_kw, hs.keyed_quiet hk hp]
    exact (blockKeyState_zero _ _).symm

/-- A host access keeps `Inv`: it starts blocks and loads keys outside Active only. -/
theorem HostChange.inv {s t : State} (c : HostChange s t) (hs : Inv s) : Inv t := by
  cases c with
  | same => exact hs
  | key n v => exact hs.congr
  | din n v => exact hs.congr
  | rejected code h => exact hs.congr
  | cleared => exact hs.congr
  | loaded hp => exact hs.loadKey hp
  | ended m hp => exact hs.endStream m hp
  | started m b hp hk => exact hs.startBlock m b hp hk

theorem Inv.roundStep {s : State} (hp : s.phase = .active) (hc : s.cnt.toNat < roundCount) (hs : Inv s) :
    Inv (roundStep s) := by
  obtain ⟨hk, -⟩ := hs.active_keyed hp
  have hcnt : (Machine.roundStep s).cnt.toNat = s.cnt.toNat + 1 := cnt_succ_toNat hc
  constructor
  case active_keyed => exact fun _ => ⟨hk, by omega⟩
  case done_count => simp [hp]
  case unkeyed => simp [hk]
  case keyed_quiet => simp [hp]
  case keyed_active =>
    intro _
    rw [hcnt, roundStep_ks, hs.keyed_active hp]
    exact roundOf_blockKeyState _ _ _ _

/-- The output step comes when all rounds are done, and the key state is then that of the quiet core again
(spec/43_feistel_engine.md rule R152). -/
theorem Inv.outputStep {s : State} (hp : s.phase = .active) (hc : ¬ s.cnt.toNat < roundCount) (hs : Inv s) :
    Inv (outputStep s) := by
  obtain ⟨hk, hle⟩ := hs.active_keyed hp
  have hcnt : s.cnt.toNat = roundCount := by omega
  constructor
  case active_keyed => simp
  case done_count => exact fun _ => BitVec.eq_of_toNat_eq hcnt
  case unkeyed => simp [hk]
  case keyed_quiet =>
    intro _ _
    calc s.ks
        = blockKeyState s.mode roundCount s.kw := hcnt ▸ hs.keyed_active hp
      _ = k64 s.kw := blockKeyState_roundCount _ _
  case keyed_active => simp

theorem CoreChange.inv {s t : State} (c : CoreChange s t) (hs : Inv s) : Inv t := by
  cases c with
  | byHost c => exact c.inv hs
  | rounded hp hc => exact hs.roundStep hp hc
  | wroteOutput hp hc => exact hs.outputStep hp hc
  | wasReset => exact resetMeetsInvariants.congr

/-- Settles O51: a step changes the core by one `CoreChange`, and `Inv` does not read the agents' data. -/
theorem stepKeepsInvariants : Obligations.StepKeepsInvariants := by
  unfold Obligations.StepKeepsInvariants
  intro s t hs hstep
  obtain ⟨u, hchange, hosts, sched, replies, rfl⟩ := step_next hstep
  exact (hchange.inv hs).congr rfl rfl rfl rfl rfl rfl

end Sys2Proof.Machine
end

section
/-! SUPPORT. Laws of byte lanes and bit fields: register values, their bytes and their halves (spec/10_state.md rules R37 to R39). -/

namespace Sys2Proof.Machine

theorem lanes_beWord (a b c d : U8) : lanes a b c d = beWord a b ++ beWord c d := by
  simp only [lanes, beWord]
  rw [BitVec.append_assoc]
  rfl

/-- The bytes of a write to the `n`-th register of a bank, lane by lane (spec/10_state.md rules R37 and R38). -/
theorem setLanes_register {m : Nat} (bytes : Vector U8 m) (n : Nat) (v : U32) (j : Nat) (hj : j < m) :
    (setLanes bytes (4 * n) v)[j] = if j / 4 = n then v.extractLsb' (8 * (3 - j % 4)) 8 else bytes[j] := by
  rw [setLanes_getElem, lane_eq_extractLsb]
  by_cases h : j / 4 = n
  · rw [if_pos (by omega), if_pos h, show j - 4 * n = j % 4 by omega]
  · rw [if_neg (by omega), if_neg h]

/-- The bytes of an output block, read four at a time, are its words two at a time (spec/10_state.md rule R39). -/
theorem lanes_highByte_lowByte (w x : U16) : lanes (highByte w) (lowByte w) (highByte x) (lowByte x) = w ++ x := by
  rw [lanes_beWord, beWord_highByte_lowByte, beWord_highByte_lowByte]

/-- A bit field is `x` when its bits are those of `x`. -/
theorem extractLsb_eq_of_getLsbD {v : U32} {start n : Nat} {x : BitVec n}
    (h : ∀ j, j < n → v.getLsbD (start + j) = x.getLsbD j) : v.extractLsb' start n = x := by
  apply BitVec.eq_of_getLsbD_eq
  intro j hj
  simp [hj, h j hj]

/-- Two byte fields side by side are one 16-bit field. -/
theorem beWord_extractLsb (v : U32) (start : Nat) :
    beWord (v.extractLsb' (start + 8) 8) (v.extractLsb' start 8) = v.extractLsb' start 16 := by
  apply BitVec.eq_of_getLsbD_eq
  intro i hi
  simp only [beWord, BitVec.getLsbD_append, BitVec.getLsbD_extractLsb', hi]
  split
  · simp [*]
  · simp [show i - 8 < 8 by omega, show start + 8 + (i - 8) = start + i by omega]

/-- The two halves of a value put together again. -/
theorem append_extractLsb_halves (v : U32) : v.extractLsb' 16 16 ++ v.extractLsb' 0 16 = v := by
  rw [BitVec.extractLsb'_append_extractLsb'_eq_extractLsb' (by rfl)]
  simp

theorem k64_halves (a b : U32) :
    k64 #v[a.extractLsb' 16 16, a.extractLsb' 0 16, b.extractLsb' 16 16, b.extractLsb' 0 16] = a ++ b := by
  show a.extractLsb' 16 16 ++ a.extractLsb' 0 16 ++ b.extractLsb' 16 16 ++ b.extractLsb' 0 16 = a ++ b
  rw [BitVec.append_assoc, append_extractLsb_halves, append_extractLsb_halves]
  rfl

end Sys2Proof.Machine
end

section
/-! SUPPORT. The outcome of a command: what its checks read, when they pass, and which elements its effect writes
(spec/60_exceptions.md rule R231, spec/45_commands.md rules R190 to R197). -/

namespace Sys2Proof.Machine

/-- An accepted command is its effect (spec/45_commands.md rule R190). -/
theorem exec_of_check_none {i : Instr} {s : State} (h : check (.ok i) s = .none) : exec i s = .next (effect i s) := by
  rw [exec_eq, acceptOrReject, if_pos h]

/-- A rejected command is its rejection (spec/60_exceptions.md rule R232). -/
theorem exec_of_check_ne_none {i : Instr} {s : State} (h : check (.ok i) s ≠ .none) :
    exec i s = .next (reject (check (.ok i) s) s) := by
  rw [exec_eq, acceptOrReject, if_neg h]

/-- The checks read PHASE and KEYVALID alone (spec/60_exceptions.md rule R231). -/
theorem check_congr {s t : State} (hphase : t.phase = s.phase) (hvalid : t.keyValid = s.keyValid)
    (c : Except Illegal Instr) : check c t = check c s := by
  unfold check
  rw [hphase, hvalid]

theorem check_keyload_none_iff (s : State) : check (.ok .keyload) s = .none ↔ s.phase ≠ .active := by
  simp [check]

/-- The checks of ENC (spec/60_exceptions.md rule R231). -/
theorem check_enc_none_iff (len : BitVec 4) (s : State) :
    check (.ok (.enc len)) s = .none ↔
      s.phase ≠ .active ∧ len.toNat ≤ 8 ∧ (len = 0 ∨ s.keyValid = true) := by
  rw [← isEndOfStream_iff, ← not_lt, ← isBadLen_iff]
  simp only [check]
  split_ifs <;> simp_all

/-- The checks of DEC are those of ENC. -/
theorem check_block_none_iff {i : Instr} {len : BitVec 4} (hi : i = .enc len ∨ i = .dec len) (s : State) :
    check (.ok i) s = .none ↔ s.phase ≠ .active ∧ len.toNat ≤ 8 ∧ (len = 0 ∨ s.keyValid = true) := by
  rcases hi with rfl | rfl
  · exact check_enc_none_iff len s
  · exact check_enc_none_iff len s

/-! ### What the effect of an accepted command writes -/

theorem acceptBlock_dout (m : Mode) (len : BitVec 4) (s : State) : (acceptBlock m len s).dout = s.dout := by
  unfold acceptBlock
  split <;> rfl

theorem acceptBlock_err (m : Mode) (len : BitVec 4) (s : State) : (acceptBlock m len s).err = s.err := by
  unfold acceptBlock
  split <;> rfl

theorem acceptBlock_kw (m : Mode) (len : BitVec 4) (s : State) : (acceptBlock m len s).kw = s.kw := by
  unfold acceptBlock
  split <;> rfl

theorem acceptBlock_keyValid (m : Mode) (len : BitVec 4) (s : State) :
    (acceptBlock m len s).keyValid = s.keyValid := by
  unfold acceptBlock
  split <;> rfl

theorem effect_dout (i : Instr) (s : State) : (effect i s).dout = s.dout := by
  cases i with
  | nop => rfl
  | keyload => rfl
  | enc len => exact acceptBlock_dout _ _ _
  | dec len => exact acceptBlock_dout _ _ _
  | clrerr => rfl

theorem effect_err_of_ne_clrerr {i : Instr} (hi : i ≠ .clrerr) (s : State) : (effect i s).err = s.err := by
  cases i with
  | nop => rfl
  | keyload => rfl
  | enc len => exact acceptBlock_err _ _ _
  | dec len => exact acceptBlock_err _ _ _
  | clrerr => exact absurd rfl hi

theorem effect_kw_of_ne_keyload {i : Instr} (hi : i ≠ .keyload) (s : State) : (effect i s).kw = s.kw := by
  cases i with
  | nop => rfl
  | keyload => exact absurd rfl hi
  | enc len => exact acceptBlock_kw _ _ _
  | dec len => exact acceptBlock_kw _ _ _
  | clrerr => rfl

theorem effect_keyValid_of_ne_keyload {i : Instr} (hi : i ≠ .keyload) (s : State) :
    (effect i s).keyValid = s.keyValid := by
  cases i with
  | nop => rfl
  | keyload => exact absurd rfl hi
  | enc len => exact acceptBlock_keyValid _ _ _
  | dec len => exact acceptBlock_keyValid _ _ _
  | clrerr => rfl

/-- No command clears KEYVALID (spec/10_state.md rule R24). -/
theorem effect_keyValid_of_keyValid (i : Instr) {s : State} (h : s.keyValid = true) : (effect i s).keyValid = true := by
  by_cases hi : i = .keyload
  · rw [hi]
    rfl
  · exact (effect_keyValid_of_ne_keyload hi s).trans h

theorem ne_zero_of_acceptBlock_r_ne {m : Mode} {len : BitVec 4} {s : State} (h : (acceptBlock m len s).r ≠ s.r) :
    len ≠ 0 := by
  rintro rfl
  exact h rfl

/-- Of the commands only ENC and DEC of a block write R (spec/10_state.md rule R25). -/
theorem block_of_effect_r_ne {i : Instr} {s : State} (h : (effect i s).r ≠ s.r) :
    ∃ len, (i = .enc len ∨ i = .dec len) ∧ len ≠ 0 := by
  cases i with
  | nop => exact absurd rfl h
  | keyload => exact absurd rfl h
  | enc len => exact ⟨len, .inl rfl, ne_zero_of_acceptBlock_r_ne h⟩
  | dec len => exact ⟨len, .inr rfl, ne_zero_of_acceptBlock_r_ne h⟩
  | clrerr => exact absurd rfl h

end Sys2Proof.Machine
end

section
/-! SUPPORT. The register window, register by register (spec/10_state.md rules R36 to R44): where each aligned offset leads, what
a read returns, what a write changes, the host's turn at an offset of the window, reset, and the statements about them. -/

namespace Sys2Proof.Machine

/-! ### Where an offset leads -/

theorem slotOf_key {n : Nat} (hn : n < 4) : slotOf (4 * n) = .key n := by
  unfold slotOf
  rw [if_pos (by omega), show 4 * n / 4 = n by omega]

theorem slotOf_din {n : Nat} (hn : n < 2) : slotOf (0x10 + 4 * n) = .din n := by
  unfold slotOf
  rw [if_neg (by omega), if_pos (by omega), show (0x10 + 4 * n - 0x10) / 4 = n by omega]

theorem slotOf_reserved {off : Nat} (h : 0x28 ≤ off) : slotOf off = .reserved := by
  unfold slotOf
  repeat rw [if_neg (by omega)]

theorem regWrite_key {n : Nat} (hn : n < 4) (v : U32) (s : State) : regWrite (4 * n) v s = .next (writeKey n v s) := by
  rw [regWrite, slotOf_key hn, writeSlot]

theorem regWrite_din {n : Nat} (hn : n < 2) (v : U32) (s : State) :
    regWrite (0x10 + 4 * n) v s = .next (writeDin n v s) := by
  rw [regWrite, slotOf_din hn, writeSlot]

theorem regRead_key {n : Nat} (hn : n < 4) (s : State) : regRead (4 * n) s = 0 := by
  rw [regRead, slotOf_key hn, readSlot]

theorem regRead_reserved {off : Nat} (h : 0x28 ≤ off) (s : State) : regRead off s = 0 := by
  rw [regRead, slotOf_reserved h, readSlot]

theorem regWrite_reserved {off : Nat} (h : 0x28 ≤ off) (v : U32) (s : State) : regWrite off v s = .next s := by
  rw [regWrite, slotOf_reserved h, writeSlot]

/-! ### What a read depends on -/

theorem statusWord_congr {s t : State} (hphase : s.phase = t.phase) (hcnt : s.cnt = t.cnt) (hmode : s.mode = t.mode)
    (hvalid : s.keyValid = t.keyValid) (heos : s.eos = t.eos) (herr : s.err = t.err) : statusWord s = statusWord t := by
  simp only [statusWord, busyBit, doneBit, hphase, hcnt, hmode, hvalid, heos, herr]

/-- Settles O26: DIN, DOUT and STATUS are the only registers whose value depends on the state. -/
theorem hiddenStateUnreadable : Obligations.HiddenStateUnreadable := by
  unfold Obligations.HiddenStateUnreadable
  intro s t off hdin hdout hphase hcnt hmode hvalid heos herr
  unfold regRead
  cases slotOf off with
  | key n => rfl
  | din n => cases n <;> simp only [readSlot, hdin]
  | dout n => cases n <;> simp only [readSlot, hdout]
  | cmd => rfl
  | status => exact statusWord_congr hphase hcnt hmode hvalid heos herr
  | reserved => rfl

@[simp] theorem regRead_withHost (off : Nat) (ops : List HostOp) (s : State) :
    regRead off (withHost ops s) = regRead off s :=
  hiddenStateUnreadable _ _ off rfl rfl rfl rfl rfl rfl rfl rfl

/-- A DIN register reads what was last written to it. -/
theorem regRead_writeDin {n : Nat} (hn : n < 2) (v : U32) (s : State) :
    regRead (0x10 + 4 * n) (writeDin n v s) = v := by
  rw [regRead, slotOf_din hn]
  match n, hn with
  | 0, _ => simp [readSlot, setLanes_getElem]
  | 1, _ => simp [readSlot, setLanes_getElem]

theorem regRead_din_reset {n : Nat} (hn : n < 2) : regRead (0x10 + 4 * n) State.reset = 0 := by
  match n, hn with
  | 0, _ => decide
  | 1, _ => decide

/-- Settles O16. -/
theorem keyWriteSetsLanes : Obligations.KeyWriteSetsLanes := by
  unfold Obligations.KeyWriteSetsLanes
  intro s n v hn
  exact ⟨writeKey n v s, regWrite_key hn v s, rfl, fun j hj => setLanes_register s.key n v j hj, regRead_key hn _⟩

/-- Settles O17. -/
theorem dinWriteThenRead : Obligations.DinWriteThenRead := by
  unfold Obligations.DinWriteThenRead
  intro s n v hn
  exact ⟨writeDin n v s, regWrite_din hn v s, rfl, fun j hj => setLanes_register s.din n v j hj,
    regRead_writeDin hn v s, regRead_din_reset hn⟩

/-- Settles O18. -/
theorem doutReadsOutputWords : Obligations.DoutReadsOutputWords := by
  unfold Obligations.DoutReadsOutputWords
  intro s v
  refine ⟨rfl, rfl, rfl, rfl, ?_⟩
  rintro o rfl
  exact ⟨lanes_highByte_lowByte _ _, lanes_highByte_lowByte _ _⟩

/-! ### STATUS -/

theorem busyBit_iff (s : State) : busyBit s = true ↔ s.phase = .active := beq_iff_eq

theorem doneBit_iff (s : State) : doneBit s = true ↔ s.phase = .done := beq_iff_eq

theorem mode_bit_iff (m : Mode) : m.bit = true ↔ m = .decrypt := by cases m <;> decide

/-- Every bit of STATUS below ERR: a flag each, and three reserved zeros (spec/10_state.md rule R41). -/
theorem statusWord_flags (s : State) :
    (statusWord s).getLsbD 0 = busyBit s ∧ (statusWord s).getLsbD 1 = doneBit s ∧
    (statusWord s).getLsbD 2 = s.keyValid ∧ (statusWord s).getLsbD 3 = s.mode.bit ∧
    (statusWord s).getLsbD 4 = s.eos ∧ ∀ i, 5 ≤ i → i < 8 → (statusWord s).getLsbD i = false := by
  refine ⟨?_, ?_, ?_, ?_, ?_, fun i hlo hhi => ?_⟩
  case refine_6 =>
    have hbits : i ≠ 0 ∧ i - 1 ≠ 0 ∧ i - 2 ≠ 0 ∧ i - 3 ≠ 0 ∧ i - 4 ≠ 0 := by omega
    simp [statusWord, bit32, BitVec.getLsbD_ofBool, hbits, hhi, show i < 16 by omega]
  all_goals simp [statusWord, bit32]

/-- Bits 15:8 of STATUS are ERR and zeros above its three bits (spec/10_state.md rule R41). -/
theorem statusWord_err {i : Nat} (hlo : 8 ≤ i) (hhi : i < 16) (s : State) :
    (statusWord s).getLsbD i = s.err.code.getLsbD (i - 8) := by
  have hbits : i ≠ 0 ∧ i - 1 ≠ 0 ∧ i - 2 ≠ 0 ∧ i - 3 ≠ 0 ∧ i - 4 ≠ 0 := by omega
  simp [statusWord, bit32, BitVec.getLsbD_ofBool, hbits, hhi, hlo, show i < 32 by omega]

/-- Bits 31:16 of STATUS are CNT and zeros above its five bits (spec/10_state.md rule R41). -/
theorem statusWord_cnt {i : Nat} (hlo : 16 ≤ i) (hhi : i < 32) (s : State) :
    (statusWord s).getLsbD i = s.cnt.getLsbD (i - 16) := by
  have hbits : i ≠ 0 ∧ i - 1 ≠ 0 ∧ i - 2 ≠ 0 ∧ i - 3 ≠ 0 ∧ i - 4 ≠ 0 := by omega
  have hcode : s.err.code.getLsbD (i - 8) = false := BitVec.getLsbD_of_ge _ _ (by omega)
  simp [statusWord, bit32, BitVec.getLsbD_ofBool, hbits, hcode, hlo, hhi]

/-- Settles O15. -/
theorem statusFields : Obligations.StatusFields := by
  unfold Obligations.StatusFields
  intro s
  rw [show regRead 0x24 s = statusWord s from rfl]
  obtain ⟨hbusy, hdone, hvalid, hmode, heos, hzero⟩ := statusWord_flags s
  refine ⟨?_, ?_, hvalid, ?_, heos, ?_, ?_, ?_, ?_, ?_, by decide, fun v => rfl⟩
  · rw [hbusy, busyBit_iff]
  · rw [hdone, doneBit_iff]
  · rw [hmode, mode_bit_iff]
  · exact extractLsb_eq_of_getLsbD fun j hj => by simp [hzero (5 + j) (by omega) (by omega)]
  · exact extractLsb_eq_of_getLsbD fun j hj => by simp [statusWord_err (i := 8 + j) (by omega) (by omega)]
  · exact extractLsb_eq_of_getLsbD fun j hj => by
      rw [statusWord_err (by omega) (by omega), BitVec.getLsbD_of_ge _ _ (by omega)]
      simp
  · exact extractLsb_eq_of_getLsbD fun j hj => by simp [statusWord_cnt (i := 16 + j) (by omega) (by omega)]
  · exact extractLsb_eq_of_getLsbD fun j hj => by
      rw [statusWord_cnt (by omega) (by omega), BitVec.getLsbD_of_ge _ _ (by omega)]
      simp

/-! ### The host's turn at an offset of the window -/

theorem busCheck_w32_ok {off : Nat} (hin : off < 64) (haligned : off % 4 = 0) : busCheck off .w32 = .ok :=
  (busCheck_ok_iff off .w32).2 ⟨hin, rfl, haligned⟩

/-- A legal host write is taken off the list and is the register's write (spec/20_memory.md rule R67). -/
theorem hostTurn_of_write {s : State} {off : Nat} {v : U32} {ops : List HostOp} (hin : off < 64)
    (haligned : off % 4 = 0) (hhost : s.host = .write off .w32 v :: ops) :
    hostTurn s = regWrite off v (withHost ops s) := by
  rw [hostTurn_of_host_cons hhost]
  exact checkedAccess_of_ok (busCheck_w32_ok hin haligned) _ _

/-- A legal host read is taken off the list and answered, and changes nothing else (spec/20_memory.md rule R66). -/
theorem hostTurn_of_read {s : State} {off : Nat} {ops : List HostOp} (hin : off < 64) (haligned : off % 4 = 0)
    (hhost : s.host = .read off .w32 :: ops) :
    hostTurn s = .next (answer (.data (regRead off s)) (withHost ops s)) := by
  rw [hostTurn_of_host_cons hhost, ← regRead_withHost off ops s]
  exact checkedAccess_of_ok (busCheck_w32_ok hin haligned) _ _

/-- Settles O19. -/
theorem reservedOffsetsInert : Obligations.ReservedOffsetsInert := by
  unfold Obligations.ReservedOffsetsInert
  intro s off v rest hlo hhi haligned
  have hin : off < 64 := by omega
  constructor
  · intro hhost
    rw [hostTurn_of_read hin haligned hhost, regRead_reserved hlo]
    rfl
  · intro hhost
    rw [hostTurn_of_write hin haligned hhost, regWrite_reserved hlo]
    rfl

/-- Settles O22. -/
theorem cmdWriteIsOneCommand : Obligations.CmdWriteIsOneCommand := by
  unfold Obligations.CmdWriteIsOneCommand
  intro s v rest
  exact ⟨hostTurn_of_cmd_write, hostTurn_of_read (by decide) (by decide)⟩

/-! ### Reset -/

theorem statusWord_resetCore (s : State) : statusWord (resetCore s) = 0 :=
  (statusWord_congr rfl rfl rfl rfl rfl rfl : _ = statusWord State.reset).trans (by decide)

/-- Settles O49. -/
theorem resetSetsEveryElement : Obligations.ResetSetsEveryElement := by
  unfold Obligations.ResetSetsEveryElement
  intro s
  exact ⟨resetCore s, rfl, statusWord_resetCore s, rfl⟩

/-! ### The key words -/

/-- Settles O35. -/
theorem keyWordsAreBytePairs : Obligations.KeyWordsAreBytePairs := by
  unfold Obligations.KeyWordsAreBytePairs
  intro key i h
  match i, h with
  | 0, _ => rfl
  | 1, _ => rfl
  | 2, _ => rfl
  | 3, _ => rfl

end Sys2Proof.Machine
end

section
/-! SUPPORT. SETKEY, the host program that loads a key (spec/30_encoding.md rule R89). -/

namespace Sys2Proof.Machine

/-- The sixteen bytes of SETKEY's operands, in stream order (spec/10_state.md rule R37, spec/30_encoding.md rule R89). -/
def operandBytes (a b c d : U32) : Vector U8 16 :=
  #v[a.extractLsb' 24 8, a.extractLsb' 16 8, a.extractLsb' 8 8, a.extractLsb' 0 8,
    b.extractLsb' 24 8, b.extractLsb' 16 8, b.extractLsb' 8 8, b.extractLsb' 0 8,
    c.extractLsb' 24 8, c.extractLsb' 16 8, c.extractLsb' 8 8, c.extractLsb' 0 8,
    d.extractLsb' 24 8, d.extractLsb' 16 8, d.extractLsb' 8 8, d.extractLsb' 0 8]

/-- Four writes to KEY0 to KEY3 set all sixteen key bytes, whatever they were (spec/10_state.md rule R37). -/
theorem setLanes_whole_key (key : Vector U8 16) (a b c d : U32) :
    setLanes (setLanes (setLanes (setLanes key (4 * 0) a) (4 * 1) b) (4 * 2) c) (4 * 3) d = operandBytes a b c d := by
  ext j hj
  simp only [setLanes_register]
  interval_cases j <;> rfl

theorem writeKey_whole_key (a b c d : U32) (s : State) :
    writeKey 3 d (writeKey 2 c (writeKey 1 b (writeKey 0 a s))) = { s with key := operandBytes a b c d } := by
  rw [← setLanes_whole_key s.key]
  simp only [writeKey]

theorem runTurns_cons {x : Turn} {s t : State} (h : takeTurn x s = .next t) (ts : List Turn) :
    runTurns (x :: ts) s = runTurns ts t := by
  simp only [runTurns, h]

/-- A host write to KEYn, in every PHASE (spec/10_state.md rule R37). -/
theorem takeTurn_host_of_key_write {n : Nat} {v : U32} {s : State} {ops : List HostOp} (hn : n < 4)
    (hhost : s.host = writeReg (4 * n) v :: ops) :
    takeTurn .host s = .next (writeKey n v (withHost ops s)) :=
  (hostTurn_of_write (by omega) (by omega) hhost).trans (regWrite_key hn v _)

theorem takeTurn_host_of_keyload {s : State} {ops : List HostOp} (hp : s.phase ≠ .active)
    (hhost : s.host = writeCommand .keyload :: ops) : takeTurn .host s = .next (loadKey (withHost ops s)) := by
  have hdecode : decode (encode .keyload) = .ok .keyload := rfl
  calc takeTurn .host s
      = executeCommand (encode .keyload) (withHost ops s) := hostTurn_of_cmd_write hhost
    _ = exec .keyload (withHost ops s) := executeCommand_of_decode_ok hdecode _
    _ = .next (loadKey (withHost ops s)) := exec_of_check_none ((check_keyload_none_iff _).2 hp)

theorem writeKey_withHost (n : Nat) (v : U32) (ops : List HostOp) (s : State) :
    writeKey n v (withHost ops s) = withHost ops (writeKey n v s) := rfl

/-- The first four accesses of SETKEY set the whole of KEY and nothing else (spec/30_encoding.md rule R89). -/
theorem runTurns_of_key_writes {s : State} {a b c d : U32} {ops : List HostOp} (ts : List Turn)
    (hhost : s.host = writeReg (4 * 0) a :: writeReg (4 * 1) b :: writeReg (4 * 2) c :: writeReg (4 * 3) d :: ops) :
    runTurns (.host :: .host :: .host :: .host :: ts) s =
      runTurns ts (withHost ops (writeKey 3 d (writeKey 2 c (writeKey 1 b (writeKey 0 a s))))) := by
  rw [runTurns_cons (takeTurn_host_of_key_write (by decide) hhost),
    runTurns_cons (takeTurn_host_of_key_write (n := 1) (by decide) (writeKey_host ..)),
    runTurns_cons (takeTurn_host_of_key_write (n := 2) (by decide) (writeKey_host ..)),
    runTurns_cons (takeTurn_host_of_key_write (n := 3) (by decide) (writeKey_host ..))]
  simp only [writeKey_withHost, withHost_withHost]

/-- The key words of SETKEY's operands are the halves of the first two. -/
theorem keyWords_operandBytes (a b c d : U32) :
    keyWords (operandBytes a b c d) =
      #v[a.extractLsb' 16 16, a.extractLsb' 0 16, b.extractLsb' 16 16, b.extractLsb' 0 16] := by
  simp only [← beWord_extractLsb]
  rfl

/-- Settles O59: four register writes, then KEYLOAD. -/
theorem setKeyLoadsKey : Obligations.SetKeyLoadsKey := by
  unfold Obligations.SetKeyLoadsKey
  intro s a b c d rest hp hhost
  have hkw := keyWords_operandBytes a b c d
  have hload := takeTurn_host_of_keyload (ops := rest)
    (s := withHost (writeCommand .keyload :: rest) { s with key := operandBytes a b c d }) hp rfl
  refine ⟨loadKey (withHost rest { s with key := operandBytes a b c d }), ?_, rfl, rfl, hkw, ?_⟩
  · rw [runTurns_of_key_writes _ hhost, writeKey_whole_key]
    exact runTurns_cons hload []
  · exact (congrArg k64 hkw).trans (k64_halves a b)

end Sys2Proof.Machine
end

section
/-! SUPPORT. KEY[8..15] have no effect (spec/90_conflicts.md C1): every operation takes two states that differ there alone to
outcomes that differ there alone, up to the step. -/

namespace Sys2Proof.Machine

/-- Two outcomes that differ in nothing but KEY[8..15] of the next state. -/
inductive SameOutcomeButKeyTail :
    Host.Outcome State Fault Refusal → Host.Outcome State Fault Refusal → Prop where
  | next {s t : State} (h : SameButKeyTail s t) : SameOutcomeButKeyTail (.next s) (.next t)
  | fault (f : Fault) : SameOutcomeButKeyTail (.fault f) (.fault f)
  | refused (f : Refusal) : SameOutcomeButKeyTail (.refused f) (.refused f)

/-- An operation that neither reads nor writes KEY. -/
def KeyBlind (f : State → State) : Prop :=
  ∀ (s : State) (k : Vector U8 16), f { s with key := k } = { f s with key := k }

theorem KeyBlind.sameButKeyTail {f : State → State} (hf : KeyBlind f) {s t : State} (h : SameButKeyTail s t) :
    SameButKeyTail (f s) (f t) := by
  obtain ⟨hrest, hhead⟩ := h
  have hs : (f s).key = s.key := (congrArg State.key (hf s s.key) :)
  have ht : f t = { f s with key := t.key } := (congrArg f hrest).trans (hf s t.key)
  have htkey : (f t).key = t.key := (congrArg State.key ht :)
  constructor
  · rw [htkey]
    exact ht
  · intro j hj
    simp only [hs, htkey, hhead j hj]

section
variable {s t : State} (h : SameButKeyTail s t)
include h

theorem SameButKeyTail.phase_eq : t.phase = s.phase := (congrArg State.phase h.1 :)

theorem SameButKeyTail.keyValid_eq : t.keyValid = s.keyValid := (congrArg State.keyValid h.1 :)

theorem SameButKeyTail.cnt_eq : t.cnt = s.cnt := (congrArg State.cnt h.1 :)

theorem SameButKeyTail.din_eq : t.din = s.din := (congrArg State.din h.1 :)

theorem SameButKeyTail.host_eq : t.host = s.host := (congrArg State.host h.1 :)

theorem SameButKeyTail.sched_eq : t.sched = s.sched := (congrArg State.sched h.1 :)

theorem SameButKeyTail.regRead_eq (off : Nat) : regRead off t = regRead off s := by
  rw [h.1]
  exact hiddenStateUnreadable _ _ off rfl rfl rfl rfl rfl rfl rfl rfl

/-- The key words come from KEY[0..7] (spec/40_key_schedule.md rule R100). -/
theorem SameButKeyTail.keyWords_eq : keyWords t.key = keyWords s.key := by
  obtain ⟨-, hhead⟩ := h
  simp only [keyWords, hhead 0 (by decide), hhead 1 (by decide), hhead 2 (by decide), hhead 3 (by decide),
    hhead 4 (by decide), hhead 5 (by decide), hhead 6 (by decide), hhead 7 (by decide)]

/-! ### The operations that read or write KEY -/

theorem SameButKeyTail.writeKey (n : Nat) (v : U32) : SameButKeyTail (writeKey n v s) (writeKey n v t) := by
  obtain ⟨hrest, hhead⟩ := h
  constructor
  · conv_lhs => rw [hrest]
    rfl
  · intro j hj
    simp only [writeKey_key, setLanes_getElem, hhead j hj]

theorem SameButKeyTail.loadKey : SameButKeyTail (loadKey s) (loadKey t) := by
  refine ⟨?_, h.2⟩
  simp only [Machine.loadKey, h.keyWords_eq]
  conv_lhs => rw [h.1]

theorem SameButKeyTail.resetCore : SameButKeyTail (resetCore s) (resetCore t) := by
  refine ⟨?_, fun j hj => rfl⟩
  rw [h.1]
  rfl

/-! ### The other operations -/

theorem SameButKeyTail.acceptBlock (m : Mode) (len : BitVec 4) :
    SameButKeyTail (acceptBlock m len s) (acceptBlock m len t) := by
  simp only [Machine.acceptBlock, h.din_eq]
  split
  · exact KeyBlind.sameButKeyTail (f := endStream m) (fun _ _ => rfl) h
  · exact KeyBlind.sameButKeyTail (f := startBlock m _) (fun _ _ => rfl) h

theorem SameButKeyTail.effect (i : Instr) : SameButKeyTail (effect i s) (effect i t) := by
  cases i with
  | nop => exact h
  | keyload => exact h.loadKey
  | enc len => exact h.acceptBlock _ _
  | dec len => exact h.acceptBlock _ _
  | clrerr => exact KeyBlind.sameButKeyTail (f := clearErr) (fun _ _ => rfl) h

theorem SameButKeyTail.check_eq (c : Except Illegal Instr) : check c t = check c s :=
  check_congr h.phase_eq h.keyValid_eq c

theorem SameButKeyTail.acceptOrReject (code : ErrCode) {a b : State} (hab : SameButKeyTail a b) :
    SameOutcomeButKeyTail (acceptOrReject code a s) (acceptOrReject code b t) := by
  unfold Machine.acceptOrReject
  split
  · exact .next hab
  · exact .next (KeyBlind.sameButKeyTail (f := reject code) (fun _ _ => rfl) h)

theorem SameButKeyTail.executeCommand (v : U32) :
    SameOutcomeButKeyTail (executeCommand v s) (executeCommand v t) := by
  unfold Machine.executeCommand
  split
  · rw [exec_eq, exec_eq, h.check_eq]
    exact h.acceptOrReject _ (h.effect _)
  · rw [h.check_eq]
    exact h.acceptOrReject _ h

theorem SameButKeyTail.regWrite (off : Nat) (v : U32) :
    SameOutcomeButKeyTail (regWrite off v s) (regWrite off v t) := by
  unfold Machine.regWrite
  cases slotOf off with
  | key n => exact .next (h.writeKey n v)
  | din n => exact .next (KeyBlind.sameButKeyTail (f := writeDin n v) (fun _ _ => rfl) h)
  | dout n => exact .next h
  | cmd => exact h.executeCommand v
  | status => exact .next h
  | reserved => exact .next h

theorem SameButKeyTail.answer (rep : Reply) : SameButKeyTail (answer rep s) (answer rep t) :=
  KeyBlind.sameButKeyTail (f := Machine.answer rep) (fun _ _ => rfl) h

theorem SameButKeyTail.withHost (ops : List HostOp) : SameButKeyTail (withHost ops s) (withHost ops t) :=
  KeyBlind.sameButKeyTail (f := Machine.withHost ops) (fun _ _ => rfl) h

omit h in
theorem SameOutcomeButKeyTail.checkedAccess {o o' p p' : Host.Outcome State Fault Refusal} (off : Nat) (w : Width)
    (hfailed : SameOutcomeButKeyTail o o') (hok : SameOutcomeButKeyTail p p') :
    SameOutcomeButKeyTail (checkedAccess off w o p) (checkedAccess off w o' p') := by
  unfold Machine.checkedAccess
  cases busCheck off w with
  | outside => exact .fault _
  | error => exact hfailed
  | ok => exact hok

theorem SameButKeyTail.hostAccess (op : HostOp) : SameOutcomeButKeyTail (hostAccess op s) (hostAccess op t) := by
  cases op with
  | write off w v => exact .checkedAccess off w (.next (h.answer _)) (h.regWrite off v)
  | read off w =>
    refine .checkedAccess off w (.next (h.answer _)) (.next ?_)
    rw [h.regRead_eq]
    exact h.answer _
  | poll off mask val =>
    have hagain := h.withHost (.poll off mask val :: s.host)
    simp only [Machine.hostAccess, hostPoll, h.regRead_eq, h.host_eq]
    refine .checkedAccess off .w32 (.next (hagain.answer _)) (.next ?_)
    split
    · exact h.answer _
    · exact hagain.answer _

theorem SameButKeyTail.hostTurn : SameOutcomeButKeyTail (hostTurn s) (hostTurn t) := by
  unfold Machine.hostTurn
  rw [h.host_eq]
  cases s.host with
  | nil => exact .next h
  | cons op ops => exact (h.withHost ops).hostAccess op

theorem SameButKeyTail.engineTurn : SameButKeyTail (engineTurn s) (engineTurn t) := by
  simp only [Machine.engineTurn, engineStep, h.phase_eq, h.cnt_eq]
  split
  · split
    · exact KeyBlind.sameButKeyTail (f := roundStep) (fun _ _ => rfl) h
    · exact KeyBlind.sameButKeyTail (f := outputStep) (fun _ _ => rfl) h
  · exact h

theorem SameButKeyTail.takeTurn (x : Turn) : SameOutcomeButKeyTail (takeTurn x s) (takeTurn x t) := by
  cases x with
  | host => exact h.hostTurn
  | engine => exact .next h.engineTurn
  | reset => exact .next h.resetCore
  | hostInReset => exact .refused _
  | secondHost => exact .refused _

theorem SameButKeyTail.nextTurn_eq : nextTurn t = nextTurn s := by
  simp only [nextTurn, h.sched_eq, h.phase_eq]

theorem SameButKeyTail.afterTurn : SameButKeyTail (afterTurn s) (afterTurn t) := by
  simp only [Machine.afterTurn, h.sched_eq]
  exact KeyBlind.sameButKeyTail (f := withSched _) (fun _ _ => rfl) h

theorem SameButKeyTail.step : SameOutcomeButKeyTail (step s) (step t) := by
  unfold Machine.step
  rw [h.nextTurn_eq]
  exact h.afterTurn.takeTurn _

end

/-- Settles O27: only KEYLOAD reads KEY, and of it only the first eight bytes. -/
theorem keyTailHasNoEffect : Obligations.KeyTailHasNoEffect := by
  unfold Obligations.KeyTailHasNoEffect
  intro s t h
  have hstep := h.step
  refine ⟨fun s' hs => ?_, fun f hs => ?_, fun f hs => ?_⟩
  all_goals
    rw [hs] at hstep
    generalize step t = o at hstep ⊢
    cases hstep
  · exact ⟨_, rfl, ‹_›⟩
  · rfl
  · rfl

end Sys2Proof.Machine
end

section
/-! SUPPORT. What a step can have done, with the reason for it, and the writers of KEYVALID, DOUT, ERR, R and KW (spec/10_state.md
rules R22 to R32) read off it. -/

namespace Sys2Proof.Machine

/-- What a step that answers a next state has done, by the agent that acted: the host's turn wrote KEY, DIN and the agents' data at
most, or had a command accepted or rejected; the engine's turn passed, did a round or wrote the output; or the core was reset. -/
inductive StepCause (s : State) : State → Prop where
  | hostData (k : Vector U8 16) (d : Vector U8 8) (ops : List HostOp) (reps : List Reply) (turn : nextTurn s = .host) :
      StepCause s { afterTurn s with key := k, din := d, host := ops, replies := reps }
  | accepted (v : U32) (ops : List HostOp) (i : Instr) (turn : nextTurn s = .host)
      (host : s.host = .write 0x20 .w32 v :: ops) (decoded : decode v = .ok i) (passed : check (.ok i) s = .none) :
      StepCause s (effect i (withHost ops (afterTurn s)))
  | rejected (code : ErrCode) (ops : List HostOp) (turn : nextTurn s = .host) :
      StepCause s (reject code (withHost ops (afterTurn s)))
  | enginePassed (turn : nextTurn s = .engine) : StepCause s (afterTurn s)
  | rounded (turn : nextTurn s = .engine) (active : s.phase = .active) (left : s.cnt.toNat < roundCount) :
      StepCause s (roundStep (afterTurn s))
  | wroteOutput (turn : nextTurn s = .engine) (active : s.phase = .active) (last : ¬ s.cnt.toNat < roundCount) :
      StepCause s (outputStep (afterTurn s))
  | wasReset (turn : nextTurn s = .reset) : StepCause s (resetCore (afterTurn s))

theorem hostTurn_cause {s t : State} (hturn : nextTurn s = .host) (h : hostTurn (afterTurn s) = .next t) :
    StepCause s t := by
  rcases hostTurn_cases h with ⟨ops, reps, rfl⟩ | ⟨n, v, ops, rfl⟩ | ⟨n, v, ops, rfl⟩ | ⟨v, ops, hhost, hexec⟩
  · exact .hostData s.key s.din ops reps hturn
  · exact .hostData _ s.din ops s.replies hturn
  · exact .hostData s.key _ ops s.replies hturn
  · rcases executeCommand_cases hexec with ⟨i, hdecode, hcheck, rfl⟩ | ⟨code, -, -, rfl⟩
    · exact .accepted v ops i hturn hhost hdecode ((check_congr rfl rfl _).symm.trans hcheck)
    · exact .rejected code ops hturn

theorem step_cause {s t : State} (h : step s = .next t) : StepCause s t := by
  unfold step at h
  cases hturn : nextTurn s <;> rw [hturn] at h
  case host => exact hostTurn_cause hturn h
  case engine =>
    cases h
    rcases engineTurn_cases (afterTurn s) with ⟨-, e⟩ | ⟨hp, hc, e⟩ | ⟨hp, hc, e⟩ <;> rw [e]
    · exact .enginePassed hturn
    · exact .rounded hturn hp hc
    · exact .wroteOutput hturn hp hc
  case reset => cases h; exact .wasReset hturn
  case hostInReset => cases h
  case secondHost => cases h

/-! ### The writers of each element -/

/-- Settles O53: of the causes of a step only the output step and reset write DOUT. -/
theorem doutWrittenOnlyByOutputStep : Obligations.DoutWrittenOnlyByOutputStep := by
  unfold Obligations.DoutWrittenOnlyByOutputStep
  intro s t hstep hne
  cases step_cause hstep with
  | accepted v ops i => exact absurd (effect_dout i _) hne
  | wroteOutput turn active last => exact .inl ⟨turn, active, not_lt.1 last, rfl, rfl⟩
  | wasReset turn => exact .inr ⟨turn, rfl⟩
  | _ => exact absurd rfl hne

/-- Settles O54: a rejection keeps a code that is there, and of the commands CLRERR alone writes ERR when accepted. -/
theorem firstErrorIsKept : Obligations.FirstErrorIsKept := by
  unfold Obligations.FirstErrorIsKept
  intro s t hstep herr hne
  cases step_cause hstep with
  | accepted v ops i turn host decoded =>
    by_cases hi : i = .clrerr
    · subst hi
      exact ⟨rfl, .inr ⟨turn, v, ops, host, decoded⟩⟩
    · exact absurd (effect_err_of_ne_clrerr hi _) hne
  | rejected => exact absurd (if_neg herr) hne
  | wasReset turn => exact ⟨rfl, .inl turn⟩
  | _ => exact absurd rfl hne

/-- Settles O55: a command that writes R is an ENC or DEC of a block, and its checks have passed. -/
theorem workingRegisterWriters : Obligations.WorkingRegisterWriters := by
  unfold Obligations.WorkingRegisterWriters
  intro s t hstep hne
  cases step_cause hstep with
  | accepted v ops i turn host decoded passed =>
    obtain ⟨len, hi, hlen⟩ := block_of_effect_r_ne hne
    obtain ⟨hquiet, hle, hkeyed⟩ := (check_block_none_iff hi s).1 passed
    have hpos : 1 ≤ len.toNat := by bv_omega
    have hword : decode v = .ok (.enc len) ∨ decode v = .ok (.dec len) := by
      rcases hi with rfl | rfl
      · exact .inl decoded
      · exact .inr decoded
    exact .inr (.inr ⟨turn, v, ops, len, host, hword, hpos, hle, hquiet, hkeyed.resolve_left hlen⟩)
  | rounded turn active left => exact .inr (.inl ⟨turn, active, left⟩)
  | wasReset turn => exact .inl turn
  | _ => exact absurd rfl hne

/-- Settles O56. -/
theorem keyWordWriters : Obligations.KeyWordWriters := by
  unfold Obligations.KeyWordWriters
  intro s t hstep hne
  cases step_cause hstep with
  | accepted v ops i turn host decoded =>
    by_cases hi : i = .keyload
    · subst hi
      exact .inr ⟨turn, rfl, v, ops, host, decoded⟩
    · exact absurd (effect_kw_of_ne_keyload hi _) hne
  | wasReset turn => exact .inl turn
  | _ => exact absurd rfl hne

/-! ### KEYVALID -/

/-- KEYVALID is cleared by a reset alone. -/
theorem StepCause.keyValid_cleared {s t : State} (c : StepCause s t) (hs : s.keyValid = true)
    (ht : t.keyValid = false) : nextTurn s = .reset := by
  cases c with
  | accepted v ops i =>
    have hkept : (effect i (withHost ops (afterTurn s))).keyValid = true := effect_keyValid_of_keyValid i hs
    exact absurd (hkept.symm.trans ht) (by decide)
  | wasReset turn => exact turn
  | _ => exact absurd (hs.symm.trans ht) (by decide)

/-- KEYVALID is set by an accepted KEYLOAD alone. -/
theorem StepCause.keyValid_set {s t : State} (c : StepCause s t) (hs : s.keyValid = false) (ht : t.keyValid = true) :
    nextTurn s = .host ∧ s.phase ≠ .active ∧
      ∃ v rest, s.host = .write 0x20 .w32 v :: rest ∧ decode v = .ok .keyload := by
  cases c with
  | accepted v ops i turn host decoded passed =>
    by_cases hi : i = .keyload
    · subst hi
      exact ⟨turn, (check_keyload_none_iff s).1 passed, v, ops, host, decoded⟩
    · have hkept : (effect i (withHost ops (afterTurn s))).keyValid = false :=
        (effect_keyValid_of_ne_keyload hi _).trans hs
      exact absurd (hkept.symm.trans ht) (by decide)
  | wasReset turn => cases ht
  | _ => exact absurd (hs.symm.trans ht) (by decide)

/-- Settles O52: the two clauses on a change come from the causes of a step, the others from the step of a decoded command. -/
theorem keyValidLifecycle : Obligations.KeyValidLifecycle := by
  unfold Obligations.KeyValidLifecycle
  intro s t hstep
  refine ⟨(step_cause hstep).keyValid_cleared, (step_cause hstep).keyValid_set, ?_, ?_, ?_⟩
  · intro v rest hturn hhost hdecode hquiet
    have hcheck : check (.ok .keyload) { s with host := rest, sched := s.sched.tail } = .none :=
      (check_keyload_none_iff _).2 hquiet
    rw [stepRunsDecodedCommand s v _ rest hturn hhost hdecode, exec_of_check_none hcheck] at hstep
    cases hstep
    rfl
  · intro hturn
    rw [step_of_nextTurn hturn] at hstep
    cases hstep
    rfl
  · intro v rest len hturn hhost hdecode hlo hhi hunkeyed
    obtain ⟨i, hi, hdec⟩ : ∃ i, (i = .enc len ∨ i = .dec len) ∧ decode v = .ok i :=
      hdecode.elim (fun h => ⟨_, .inl rfl, h⟩) (fun h => ⟨_, .inr rfl, h⟩)
    have hlen : len ≠ 0 := by bv_omega
    have hcheck : check (.ok i) { s with host := rest, sched := s.sched.tail } ≠ .none := fun hnone => by
      obtain ⟨-, -, hkeyed⟩ := (check_block_none_iff hi _).1 hnone
      exact absurd (hunkeyed.symm.trans (hkeyed.resolve_left hlen)) (by decide)
    rw [stepRunsDecodedCommand s v i rest hturn hhost hdec, exec_of_check_ne_none hcheck] at hstep
    cases hstep
    exact ⟨_, hcheck, rfl⟩

end Sys2Proof.Machine
end

section
/-! SUPPORT. The engine's turns one after another, and the length of a block (spec/43_feistel_engine.md rule R150). -/

namespace Sys2Proof.Machine

theorem engineTurn_of_round {s : State} (hp : s.phase = .active) (hc : s.cnt.toNat < roundCount) :
    engineTurn s = roundStep s := by
  rw [engineTurn, if_pos hp, engineStep, if_pos hc]

theorem engineTurn_of_output {s : State} (hp : s.phase = .active) (hc : ¬ s.cnt.toNat < roundCount) :
    engineTurn s = outputStep s := by
  rw [engineTurn, if_pos hp, engineStep, if_neg hc]

theorem engineTurn_of_quiescent {s : State} (hp : s.phase ≠ .active) : engineTurn s = s := if_neg hp

theorem engineTurns_add (m n : Nat) (s : State) : engineTurns (m + n) s = engineTurns n (engineTurns m s) := by
  induction m generalizing s with
  | zero => rw [Nat.zero_add, engineTurns]
  | succ m ih => rw [Nat.succ_add, engineTurns, engineTurns, ih]

/-- The last turn of a run of engine turns, where the definition takes off the first. -/
theorem engineTurns_succ (n : Nat) (s : State) : engineTurns (n + 1) s = engineTurn (engineTurns n s) :=
  engineTurns_add n 1 s

theorem engineTurns_of_quiescent {s : State} (hp : s.phase ≠ .active) (n : Nat) : engineTurns n s = s := by
  induction n with
  | zero => rfl
  | succ n ih => rw [engineTurns, engineTurn_of_quiescent hp, ih]

/-- While rounds are left, each engine turn is one of them (spec/43_feistel_engine.md rule R150). -/
theorem engineTurns_of_rounds {s : State} (n : Nat) (hp : s.phase = .active) (hc : s.cnt.toNat + n ≤ roundCount) :
    (engineTurns n s).phase = .active ∧ (engineTurns n s).cnt.toNat = s.cnt.toNat + n := by
  induction n generalizing s with
  | zero => exact ⟨hp, rfl⟩
  | succ n ih =>
    have hleft : s.cnt.toNat < roundCount := by omega
    have hcnt : (roundStep s).cnt.toNat = s.cnt.toNat + 1 := cnt_succ_toNat hleft
    obtain ⟨hphase, hcount⟩ := ih (s := roundStep s) hp (by omega)
    rw [engineTurns, engineTurn_of_round hp hleft]
    exact ⟨hphase, by omega⟩

/-- Settles O30: sixteen rounds, then the output step, after which no engine step is enabled. -/
theorem blockTakesSeventeenSteps : Obligations.BlockTakesSeventeenSteps := by
  unfold Obligations.BlockTakesSeventeenSteps
  intro s hp hzero
  have hcnt : s.cnt.toNat = 0 := by rw [hzero]; rfl
  obtain ⟨hp16, hc16⟩ := engineTurns_of_rounds (s := s) 16 hp (by rw [hcnt]; decide)
  rw [hcnt] at hc16
  have hlast : engineTurns 17 s = outputStep (engineTurns 16 s) :=
    (engineTurns_succ 16 s).trans (engineTurn_of_output hp16 (by rw [hc16]; decide))
  refine ⟨fun n hn => ?_, fun k => ?_, ?_, ?_⟩
  · obtain ⟨hpn, hcn⟩ := engineTurns_of_rounds (s := s) n hp (by rw [hcnt, Nat.zero_add]; exact hn)
    exact ⟨hpn, by omega⟩
  · rw [engineTurns_add, hlast]
    exact engineTurns_of_quiescent (by simp) k
  · rw [hlast, outputStep_phase]
  · rw [hlast, outputStep_cnt]
    exact BitVec.eq_of_toNat_eq hc16

end Sys2Proof.Machine
end

section
/-! SUPPORT. The outcome of each kind of host access by its bus check (spec/20_memory.md rules R63 to R66, spec/60_exceptions.md
rules R233 and R236), one read of a POLL (spec/30_encoding.md rule R88), and the statements about them. -/

namespace Sys2Proof.Machine

/-! ### Reads, register by register -/

theorem mode_bit_eq_beq_decrypt (m : Mode) : m.bit = (m == .decrypt) := by cases m <;> rfl

/-- STATUS written out in the state's own fields (spec/20_memory.md rule R66). -/
theorem statusWord_eq (s : State) :
    statusWord s = (s.cnt.setWidth 32 <<< 16) ||| (s.err.code.setWidth 32 <<< 8)
      ||| ((BitVec.ofBool s.eos).setWidth 32 <<< 4)
      ||| ((BitVec.ofBool (s.mode == .decrypt)).setWidth 32 <<< 3)
      ||| ((BitVec.ofBool s.keyValid).setWidth 32 <<< 2)
      ||| ((BitVec.ofBool (s.phase == .done)).setWidth 32 <<< 1)
      ||| (BitVec.ofBool (s.phase == .active)).setWidth 32 := by
  rw [← mode_bit_eq_beq_decrypt]
  rfl

/-- Settles O14: the map leads each named offset to its register, the rest to the reserved ones, and a legal read only answers. -/
theorem regReadFollowsMap : Obligations.RegReadFollowsMap := by
  unfold Obligations.RegReadFollowsMap
  intro s
  refine ⟨?keys, rfl, rfl, rfl, rfl, rfl, statusWord_eq s, fun off hoff => regRead_reserved hoff s,
    fun off rest hin haligned hhost => hostTurn_of_read hin haligned hhost⟩
  case keys =>
    rintro off (rfl | rfl | rfl | rfl)
    · exact regRead_key (n := 0) (by decide) s
    · exact regRead_key (n := 1) (by decide) s
    · exact regRead_key (n := 2) (by decide) s
    · exact regRead_key (n := 3) (by decide) s

/-! ### Accesses that the bus checks stop -/

theorem checkedAccess_of_error {off : Nat} {w : Width} (h : busCheck off w = .error)
    (failed ok : Host.Outcome State Fault Refusal) : checkedAccess off w failed ok = failed := by
  simp only [checkedAccess, h]

theorem checkedAccess_of_outside {off : Nat} {w : Width} (h : busCheck off w = .outside)
    (failed ok : Host.Outcome State Fault Refusal) : checkedAccess off w failed ok = .fault (.outsideWindow off) := by
  simp only [checkedAccess, h]

/-- Settles O20: the bus check fails the access before any register is looked at. -/
theorem busErrorChangesNothing : Obligations.BusErrorChangesNothing := by
  unfold Obligations.BusErrorChangesNothing
  intro s off w v rest hin hillegal hhost
  have hbus : busCheck off w = .error := (busCheck_error_iff off w).2 ⟨hin, hillegal⟩
  rcases hhost with hhost | hhost
  all_goals
    rw [hostTurn_of_host_cons hhost]
    exact checkedAccess_of_error hbus _ _

/-- Settles O21: an offset outside the window is asked for first, whatever the width and the kind of access. -/
theorem outsideWindowFaults : Obligations.OutsideWindowFaults := by
  unfold Obligations.OutsideWindowFaults
  intro s off w v mask val rest hout hhost
  have hbus (w : Width) : busCheck off w = .outside := (busCheck_outside_iff off w).2 hout
  rcases hhost with hhost | hhost | hhost
  all_goals
    rw [hostTurn_of_host_cons hhost]
    exact checkedAccess_of_outside (hbus _) _ _

/-! ### POLL -/

/-- Taking the next access off the host's list and putting it back leaves the state as it was. -/
theorem withHost_of_host_eq {s : State} {ops : List HostOp} (h : s.host = ops) : withHost ops s = s := by
  rw [← h, withHost_self]

/-- An aligned read of a POLL is answered, and takes the POLL off the list if its masked value is right. -/
theorem hostTurn_of_poll {s : State} {off : Nat} {mask val : U32} {ops : List HostOp} (hin : off < 64)
    (haligned : off % 4 = 0) (hhost : s.host = .poll off mask val :: ops) :
    hostTurn s = .next (answer (.data (regRead off s)) (if regRead off s &&& mask = val then withHost ops s else s)) := by
  rw [hostTurn_of_host_cons hhost, hostAccess, hostPoll, checkedAccess_of_ok (busCheck_w32_ok hin haligned),
    regRead_withHost, withHost_host, withHost_withHost, withHost_of_host_eq hhost]

/-- A misaligned POLL is answered with BusError and stays on the list. -/
theorem hostTurn_of_misaligned_poll {s : State} {off : Nat} {mask val : U32} {ops : List HostOp} (hin : off < 64)
    (hmisaligned : off % 4 ≠ 0) (hhost : s.host = .poll off mask val :: ops) :
    hostTurn s = .next (answer (.busError off) s) := by
  have hbus : busCheck off .w32 = .error := (busCheck_error_iff off .w32).2 ⟨hin, .inr hmisaligned⟩
  rw [hostTurn_of_host_cons hhost, hostAccess, hostPoll, checkedAccess_of_error hbus, withHost_host, withHost_withHost,
    withHost_of_host_eq hhost]

/-- Settles O23. -/
theorem pollRepeatsUntilEqual : Obligations.PollRepeatsUntilEqual := by
  unfold Obligations.PollRepeatsUntilEqual
  intro s off mask val rest hin hhost
  refine ⟨fun haligned hright => ?_, fun haligned hwrong => ?_, fun hmisaligned => ?_⟩
  · rw [hostTurn_of_poll hin haligned hhost, if_pos hright]
    rfl
  · rw [hostTurn_of_poll hin haligned hhost, if_neg hwrong]
    rfl
  · exact hostTurn_of_misaligned_poll hin hmisaligned hhost

end Sys2Proof.Machine
end

section
/-! SUPPORT. A block in progress under any interleaving of host and engine (spec/20_memory.md rule R72): what the rounds done so
far have made of the registers, that a host's turn leaves it, and that an engine's turn carries it on (spec/43_feistel_engine.md
rules R149 and R150). -/

namespace Sys2Proof.Machine

/-! ### The block function, round by round -/

/-- The registers and the key state after the first `n` rounds of a block. -/
def blockRounds (m : Mode) (b kw : Block) (n : Nat) : Block × U64 :=
  (List.range n).foldl (fun x i => roundOf m i x) (whitenIn m b kw, k64 kw)

theorem blockRounds_succ (m : Mode) (b kw : Block) (n : Nat) :
    blockRounds m b kw (n + 1) = roundOf m n (blockRounds m b kw n) := by
  simp only [blockRounds, List.range_succ, List.foldl_append, List.foldl_cons, List.foldl_nil]

theorem blockFunction_eq_whitenOut (m : Mode) (b kw : Block) :
    blockFunction m b kw = whitenOut m (blockRounds m b kw roundCount).1 kw := by
  cases m <;> rfl

theorem blockRounds_snd (m : Mode) (b kw : Block) (n : Nat) : (blockRounds m b kw n).2 = blockKeyState m n kw := by
  induction n with
  | zero => exact (blockKeyState_zero m kw).symm
  | succ n ih =>
    calc (blockRounds m b kw (n + 1)).2
        = (roundOf m n ((blockRounds m b kw n).1, blockKeyState m n kw)).2 := by rw [blockRounds_succ, ← ih]
      _ = blockKeyState m (n + 1) kw := roundOf_blockKeyState m n _ kw

/-! ### The host during a block -/

/-- During a block no host access writes anything the block depends on, or its result: the commands that would are rejected
(spec/70_reset_and_hazards.md rule R272). -/
theorem HostChange.block_frame {s t : State} (c : HostChange s t) (hp : s.phase = .active) :
    t.phase = s.phase ∧ t.r = s.r ∧ t.ks = s.ks ∧ t.kw = s.kw ∧ t.keyValid = s.keyValid ∧ t.cnt = s.cnt ∧
    t.mode = s.mode ∧ t.dout = s.dout ∧ t.eos = s.eos := by
  cases c with
  | same => simp
  | key n v => simp
  | din n v => simp
  | rejected code h => simp
  | cleared => simp
  | loaded h => exact absurd hp h
  | ended m h => exact absurd hp h
  | started m b h k => exact absurd hp h

/-- The block `b` is in progress in mode `m` under the key words `kw`, with `n` of its rounds done. -/
structure BlockProgress (m : Mode) (b kw : Block) (n : Nat) (s : State) : Prop where
  active : s.phase = .active
  count : s.cnt.toNat = n
  mode_eq : s.mode = m
  kw_eq : s.kw = kw
  rounds : (s.r, s.ks) = blockRounds m b kw n

section
variable {m : Mode} {b kw : Block} {n : Nat} {s t : State}

theorem BlockProgress.hostTurn (hs : BlockProgress m b kw n s) (h : hostTurn s = .next t) : BlockProgress m b kw n t := by
  obtain ⟨u, hchange, hosts, sched, replies, rfl⟩ := hostTurn_next h
  obtain ⟨hphase, hr, hks, hkw, -, hcnt, hmode, -, -⟩ := hchange.block_frame hs.active
  exact {
    active := hphase.trans hs.active
    count := (congrArg BitVec.toNat hcnt).trans hs.count
    mode_eq := hmode.trans hs.mode_eq
    kw_eq := hkw.trans hs.kw_eq
    rounds := (congrArg₂ Prod.mk hr hks).trans hs.rounds }

/-- With rounds left, the engine's turn is the next of them. -/
theorem BlockProgress.engineTurn (hs : BlockProgress m b kw n s) (hleft : n < roundCount) :
    BlockProgress m b kw (n + 1) (engineTurn s) := by
  have hcnt : s.cnt.toNat < roundCount := hs.count ▸ hleft
  rw [engineTurn_of_round hs.active hcnt]
  exact {
    active := hs.active
    count := by rw [roundStep_cnt, cnt_succ_toNat hcnt, hs.count]
    mode_eq := hs.mode_eq
    kw_eq := hs.kw_eq
    rounds := by rw [blockRounds_succ, roundStep_r, roundStep_ks, hs.mode_eq, hs.count, hs.rounds] }

end

/-! ### Interleavings -/

theorem runTurns_cons_next {x : Turn} {ts : List Turn} {s t : State} (h : runTurns (x :: ts) s = .next t) :
    ∃ u, takeTurn x s = .next u ∧ runTurns ts u = .next t := by
  rw [runTurns] at h
  split at h
  · exact ⟨_, ‹_›, h⟩
  · cases h
  · cases h

theorem runTurns_append_next {ts us : List Turn} {s t : State} (h : runTurns (ts ++ us) s = .next t) :
    ∃ u, runTurns ts s = .next u ∧ runTurns us u = .next t := by
  induction ts generalizing s with
  | nil => exact ⟨s, rfl, h⟩
  | cons x ts ih =>
    obtain ⟨s', hx, hrest⟩ := runTurns_cons_next h
    obtain ⟨u, hts, hus⟩ := ih hrest
    exact ⟨u, (runTurns_cons hx ts).trans hts, hus⟩

/-- Turns of host and engine carry a block on by as many rounds as the engine has turns among them. -/
theorem BlockProgress.runTurns {m : Mode} {b kw : Block} {n : Nat} {s t : State} {ts : List Turn}
    (hs : BlockProgress m b kw n s) (hagents : ∀ x ∈ ts, x = .host ∨ x = .engine)
    (hleft : n + ts.count .engine ≤ roundCount) (h : runTurns ts s = .next t) :
    BlockProgress m b kw (n + ts.count .engine) t := by
  induction ts generalizing n s with
  | nil => cases h; exact hs
  | cons x ts ih =>
    obtain ⟨u, hx, hrest⟩ := runTurns_cons_next h
    obtain ⟨hagent, hothers⟩ := List.forall_mem_cons.1 hagents
    rcases hagent with rfl | rfl
    · rw [List.count_cons_of_ne (by decide)] at hleft ⊢
      exact ih (hs.hostTurn hx) hothers hleft hrest
    · cases hx
      rw [List.count_cons_self, Nat.add_comm _ 1, ← Nat.add_assoc] at hleft ⊢
      exact ih (hs.engineTurn (by omega)) hothers hleft hrest

/-- Settles O33: sixteen engine turns are the sixteen rounds, whatever the host does between them, and the one after them
writes the output. -/
theorem blockResultUnderAnyInterleaving : Obligations.BlockResultUnderAnyInterleaving := by
  unfold Obligations.BlockResultUnderAnyInterleaving
  intro s t b ts hp hcnt hks hr hagents hcount hrun
  have hstart : BlockProgress s.mode b s.kw 0 s := ⟨hp, by rw [hcnt]; rfl, rfl, rfl, by rw [hks, hr]; rfl⟩
  obtain ⟨u, hturns, hlast⟩ := runTurns_append_next hrun
  have hdone : BlockProgress s.mode b s.kw roundCount u := by
    have hprogress := hstart.runTurns hagents (by rw [hcount]; decide) hturns
    rwa [hcount] at hprogress
  obtain ⟨hactive, hcnt16, hmode, hkw, hrounds⟩ := hdone
  obtain ⟨hr16, hks16⟩ := Prod.ext_iff.1 hrounds
  cases hlast
  rw [engineTurn_of_output hactive (by rw [hcnt16]; decide)]
  refine ⟨rfl, BitVec.eq_of_toNat_eq hcnt16, hmode, hkw, ?ks, ?dout⟩
  case ks =>
    calc u.ks
        = (blockRounds s.mode b s.kw roundCount).2 := hks16
      _ = blockKeyState s.mode roundCount s.kw := blockRounds_snd _ _ _ _
      _ = k64 s.kw := blockKeyState_roundCount _ _
  case dout =>
    rw [outputStep_dout, blockFunction_eq_whitenOut, hmode, hkw, ← hr16]

end Sys2Proof.Machine
end

section
/-! SUPPORT. The decoder against the encoder and the opcode map (spec/30_encoding.md rules R80 to R87): a word is known by its
three fields, the words of the commands are the only ones that are not Illegal, and what becomes of every word that is executed. -/

namespace Sys2Proof.Machine

/-! ### The fields of a word -/

/-- A word is the command word of `len` and `op` when its three fields say so (spec/30_encoding.md rule R80). -/
theorem eq_commandWord_iff {v : U32} {len : BitVec 4} {op : U8} :
    v = commandWord len op ↔ rsvdField v = 0 ∧ lenField v = len ∧ opField v = op := by
  constructor
  · rintro rfl
    obtain ⟨hop, hlen, hrsvd⟩ := commandWord_fields len op
    exact ⟨hrsvd, hlen, hop⟩
  · rintro ⟨hrsvd, rfl, rfl⟩
    exact eq_commandWord_of_rsvd v hrsvd

/-- The mask of ENC and DEC takes LEN out of a word and leaves the other two fields (spec/30_encoding.md rule R83). -/
theorem and_blockMask_fields (v : U32) :
    rsvdField (v &&& 0xFFFFF0FF) = rsvdField v ∧ lenField (v &&& 0xFFFFF0FF) = 0 ∧
    opField (v &&& 0xFFFFF0FF) = opField v := by
  refine ⟨?rsvd, ?len, ?op⟩
  case rsvd => exact BitVec.extractLsb'_and.trans BitVec.and_allOnes
  case len => exact BitVec.extractLsb'_and.trans BitVec.and_zero
  case op => exact BitVec.extractLsb'_and.trans BitVec.and_allOnes

/-- A word selects the row of ENC or DEC by its OP and its RSVD field, whatever its LEN (spec/30_encoding.md rule R83). -/
theorem and_blockMask_eq_iff (v : U32) (op : U8) :
    v &&& 0xFFFFF0FF = commandWord 0 op ↔ rsvdField v = 0 ∧ opField v = op := by
  obtain ⟨hrsvd, hlen, hop⟩ := and_blockMask_fields v
  rw [eq_commandWord_iff, hrsvd, hlen, hop]
  simp only [true_and]

/-! ### Decode and encode -/

/-- The decoder finds in a command's word the OP and the operand it was built from. -/
theorem decode_encode (i : Instr) : decode (encode i) = .ok i := by
  cases i <;> simp [decode, encode, commandWord_fields]

/-- Each branch of the decoder that accepts has pinned all three fields (spec/30_encoding.md rule R84). -/
theorem eq_encode_of_decode_ok {v : U32} {i : Instr} (h : decode v = .ok i) : v = encode i := by
  unfold decode at h
  split_ifs at h with hrsvd henc hdec hlen hnop hkeyload hclrerr
  all_goals
    cases h
    apply eq_commandWord_iff.2
  · exact ⟨not_not.1 hrsvd, rfl, henc⟩
  · exact ⟨not_not.1 hrsvd, rfl, hdec⟩
  · exact ⟨not_not.1 hrsvd, not_not.1 hlen, hnop⟩
  · exact ⟨not_not.1 hrsvd, not_not.1 hlen, hkeyload⟩
  · exact ⟨not_not.1 hrsvd, not_not.1 hlen, hclrerr⟩

/-- Settles O1. -/
theorem decodeExactlyEncodings : Obligations.DecodeExactlyEncodings := by
  unfold Obligations.DecodeExactlyEncodings
  exact fun v i => ⟨eq_encode_of_decode_ok, fun h => h ▸ decode_encode i⟩

/-! ### The opcode map -/

/-- Decoding is total: a word that is no command's is Illegal (spec/30_encoding.md rule R84). -/
theorem decode_error_iff (v : U32) : (∃ e, decode v = .error e) ↔ ∀ i, decode v ≠ .ok i := by
  cases decode v <;> simp

theorem executeCommand_of_decode_error {v : U32} {e : Illegal} (h : decode v = .error e) (s : State) :
    executeCommand v s = .next (reject .badcmd s) := by
  simp only [executeCommand, h]
  rfl

/-- The mask of NOP, KEYLOAD and CLRERR keeps every bit, so their rows hold one word each (spec/30_encoding.md rule R83). -/
theorem decode_ok_iff_fullMask (v : U32) (i : Instr) : decode v = .ok i ↔ v &&& 0xFFFFFFFF = encode i := by
  rw [show v &&& 0xFFFFFFFF = v from BitVec.and_allOnes]
  exact decodeExactlyEncodings v i

/-- The row of ENC or DEC, together with the operand in LEN. -/
theorem eq_commandWord_iff_blockMask (v : U32) (len : BitVec 4) (op : U8) :
    v = commandWord len op ↔ v &&& 0xFFFFF0FF = commandWord 0 op ∧ len = v.extractLsb' 8 4 := by
  rw [eq_commandWord_iff, and_blockMask_eq_iff, and_assoc, eq_comm (a := len), and_comm (a := opField v = op)]
  rfl

/-- Settles O2: each row is the set of its command's words, and Illegal is what no row leaves over. -/
theorem decodeFollowsOpcodeMap : Obligations.DecodeFollowsOpcodeMap := by
  unfold Obligations.DecodeFollowsOpcodeMap
  intro v
  have hnop := decode_ok_iff_fullMask v .nop
  have hkeyload := decode_ok_iff_fullMask v .keyload
  have henc (len) := (decodeExactlyEncodings v (.enc len)).trans (eq_commandWord_iff_blockMask v len 0x02)
  have hdec (len) := (decodeExactlyEncodings v (.dec len)).trans (eq_commandWord_iff_blockMask v len 0x03)
  have hclrerr := decode_ok_iff_fullMask v .clrerr
  refine ⟨hnop, hkeyload, henc, hdec, hclrerr, (decode_error_iff v).trans ⟨fun hillegal => ?none, fun hrows i => ?illegal⟩,
    fun e he s => executeCommand_of_decode_error he s⟩
  case none =>
    exact ⟨fun h => hillegal _ (hnop.2 h), fun h => hillegal _ (hkeyload.2 h), fun h => hillegal _ ((henc _).2 ⟨h, rfl⟩),
      fun h => hillegal _ ((hdec _).2 ⟨h, rfl⟩), fun h => hillegal _ (hclrerr.2 h)⟩
  case illegal =>
    obtain ⟨hnop', hkeyload', henc', hdec', hclrerr'⟩ := hrows
    cases i with
    | nop => exact fun h => hnop' (hnop.1 h)
    | keyload => exact fun h => hkeyload' (hkeyload.1 h)
    | enc len => exact fun h => henc' ((henc len).1 h).1
    | dec len => exact fun h => hdec' ((hdec len).1 h).1
    | clrerr => exact fun h => hclrerr' (hclrerr.1 h)

/-! ### Illegal words -/

/-- The fields of a word that is not Illegal: RSVD is 0, OP is one of the five, and LEN is 0 but for ENC and DEC
(spec/30_encoding.md rules R82 and R85). -/
theorem fields_of_decode_ok {v : U32} {i : Instr} (h : decode v = .ok i) :
    rsvdField v = 0 ∧ (lenField v = 0 ∨ opField v = 0x02 ∨ opField v = 0x03) ∧ (opField v).toNat < 0x05 := by
  have hword := eq_encode_of_decode_ok h
  cases i
  all_goals
    obtain ⟨hrsvd, hlen, hop⟩ := eq_commandWord_iff.1 hword
    rw [hrsvd, hlen, hop]
    simp

/-- A word that can decode to no command is Illegal, and rejected with BADCMD (spec/45_commands.md rule R190). -/
theorem illegal_of_decode_ne_ok {v : U32} (h : ∀ i, decode v ≠ .ok i) (s : State) :
    (∃ e, decode v = .error e) ∧ executeCommand v s = .next (reject .badcmd s) := by
  obtain ⟨e, he⟩ := (decode_error_iff v).2 h
  exact ⟨⟨e, he⟩, executeCommand_of_decode_error he s⟩

/-- Settles O4. -/
theorem malformedWordsRejected : Obligations.MalformedWordsRejected := by
  unfold Obligations.MalformedWordsRejected
  intro v s hmalformed
  refine illegal_of_decode_ne_ok (fun i hi => ?_) s
  obtain ⟨hrsvd, hlen, -⟩ := fields_of_decode_ok hi
  rcases hmalformed with hrsvd' | ⟨hlen', henc, hdec⟩
  · exact hrsvd' hrsvd
  · exact hlen.elim hlen' (·.elim henc hdec)

/-- Settles O5. -/
theorem reservedOpsRejected : Obligations.ReservedOpsRejected := by
  unfold Obligations.ReservedOpsRejected
  intro v s hreserved
  refine illegal_of_decode_ne_ok (fun i hi => ?_) s
  obtain ⟨-, -, hop⟩ := fields_of_decode_ok hi
  exact absurd hreserved (Nat.not_le.2 hop)

/-! ### The execution of a word -/

theorem acceptOrReject_exists_next (code : ErrCode) (a s : State) : ∃ t, acceptOrReject code a s = .next t := by
  unfold acceptOrReject
  split
  · exact ⟨_, rfl⟩
  · exact ⟨_, rfl⟩

/-- Settles O13: a word is a command, accepted or rejected, or Illegal and rejected. -/
theorem everyCommandWordCompletes : Obligations.EveryCommandWordCompletes := by
  unfold Obligations.EveryCommandWordCompletes
  intro v s
  cases h : decode v with
  | ok i =>
    rw [executeCommand_of_decode_ok h, exec_eq]
    exact acceptOrReject_exists_next _ _ _
  | error e => exact ⟨_, executeCommand_of_decode_error h s⟩

/-- A word of 32 bits is the command word the opcode table numbers so. -/
theorem tableWord_toNat (v : U32) : tableWord 32 v.toNat = v := by
  rw [tableWord, Nat.mod_eq_of_lt v.isLt, BitVec.ofNat_toNat, BitVec.setWidth_eq]

/-- Settles O25: the placed word is the command's own, and the step that takes it off the host's list and the host's turn off the
order finds the state it was placed in. -/
theorem fetchedWordIsExecuted : Obligations.FetchedWordIsExecuted := by
  unfold Obligations.FetchedWordIsExecuted
  intro s i
  rw [State.withFetchWord, tableWord_toNat]
  exact stepRunsDecodedCommand (withCommand (encode i) s) (encode i) i s.host rfl rfl (decode_encode i)

/-- Settles O3: the first six are their commands' words; the last three fail one test of the decoder each. -/
theorem sampleWordsDecode : Obligations.SampleWordsDecode := by
  unfold Obligations.SampleWordsDecode
  exact ⟨decode_encode .nop, decode_encode .keyload, decode_encode (.enc 8), decode_encode (.dec 5), decode_encode (.enc 9),
    decode_encode .clrerr, rfl, rfl, rfl⟩

end Sys2Proof.Machine
end

section
/-! SUPPORT. Laws of the key schedule: the packed key words, the subkeys of a round in closed form for both directions of the
derivation, the key state over several rounds (spec/40_key_schedule.md rules R101 to R109), and the statements about them. -/

namespace Sys2Proof.Machine

/-! ### The packed key words (rule R101) -/

theorem k64_u64ToWords (v : U64) : k64 (u64ToWords v) = v := by
  show v.extractLsb' 48 16 ++ v.extractLsb' 32 16 ++ v.extractLsb' 16 16 ++ v.extractLsb' 0 16 = v
  rw [BitVec.extractLsb'_append_extractLsb'_eq_extractLsb' (by rfl),
    BitVec.extractLsb'_append_extractLsb'_eq_extractLsb' (by rfl),
    BitVec.extractLsb'_append_extractLsb'_eq_extractLsb' (by rfl)]
  exact BitVec.extractLsb'_eq_self

theorem u64ToWords_getElem (v : U64) (i : Nat) (hi : i < 4) :
    (u64ToWords v)[i] = v.extractLsb' (16 * (3 - i)) 16 := by
  match i, hi with
  | 0, _ => rfl
  | 1, _ => rfl
  | 2, _ => rfl
  | 3, _ => rfl

/-- Key word 0 stands in the most significant 16 bits, and each next one below it. -/
theorem k64_word_getLsbD (kw : Block) (i j : Nat) (hi : i < 4) (hj : j < 16) :
    (k64 kw).getLsbD (16 * (3 - i) + j) = kw[i].getLsbD j := by
  rw [k64_getLsbD]
  match i, hi with
  | 0, _ => rw [if_neg (by omega), if_neg (by omega), if_neg (by omega), show 16 * (3 - 0) + j - 48 = j by omega]
  | 1, _ => rw [if_neg (by omega), if_neg (by omega), if_pos (by omega), show 16 * (3 - 1) + j - 32 = j by omega]
  | 2, _ => rw [if_neg (by omega), if_pos (by omega), show 16 * (3 - 2) + j - 16 = j by omega]
  | 3, _ => rw [if_pos (by omega), show 16 * (3 - 3) + j = j by omega]

theorem u64ToWords_k64 (kw : Block) : u64ToWords (k64 kw) = kw := by
  apply Vector.ext
  intro i hi
  apply BitVec.eq_of_getLsbD_eq
  intro j hj
  rw [u64ToWords_getElem _ _ hi, BitVec.getLsbD_extractLsb', k64_word_getLsbD _ _ _ hi hj]
  simp [hj]

/-- Settles O36. -/
theorem keyStatePackingRoundTrip : Obligations.KeyStatePackingRoundTrip := by
  unfold Obligations.KeyStatePackingRoundTrip
  exact ⟨fun v => ⟨k64_u64ToWords v, rfl⟩, fun kw => ⟨u64ToWords_k64 kw, rfl⟩⟩

/-! ### The subkeys of a round (rules R102, R107 and R108) -/

/-- Slot `j` of a round entered with the key state `s` (rule R107). -/
def subkey (r : Nat) (s : U64) (j : Nat) : U8 := byteOf (byteIndex r j) (rotl64 s (j + 1))

/-- A subkey set whose first `n` slots hold their subkeys and whose others are those of `sk`. -/
def fillSubkeys (r : Nat) (s : U64) (n : Nat) (sk : SubkeySet) : SubkeySet :=
  Vector.ofFn fun j => if j < n then subkey r s j else sk[j]

theorem fillSubkeys_getElem (r : Nat) (s : U64) (n : Nat) (sk : SubkeySet) (j : Nat) (hj : j < 12) :
    (fillSubkeys r s n sk)[j] = if j < n then subkey r s j else sk[j] := by
  simp [fillSubkeys]

theorem fillSubkeys_zero (r : Nat) (s : U64) (sk : SubkeySet) : fillSubkeys r s 0 sk = sk := by
  apply Vector.ext
  intro j hj
  rw [fillSubkeys_getElem, if_neg (Nat.not_lt_zero j)]

/-- Slot `n` may be filled after the slots before it. -/
theorem setIfInBounds_fillSubkeys (r : Nat) (s : U64) (n : Nat) (sk : SubkeySet) :
    (fillSubkeys r s n sk).setIfInBounds n (subkey r s n) = fillSubkeys r s (n + 1) sk := by
  apply Vector.ext
  intro j hj
  rw [Vector.getElem_setIfInBounds, fillSubkeys_getElem, fillSubkeys_getElem]
  by_cases h : n = j
  · rw [if_pos h, if_pos (by omega), h]
  · simp only [if_neg h, show j < n + 1 ↔ j < n by omega]

/-- Slot `n` may be filled before them as well. -/
theorem fillSubkeys_setIfInBounds (r : Nat) (s : U64) (n : Nat) (sk : SubkeySet) :
    fillSubkeys r s n (sk.setIfInBounds n (subkey r s n)) = fillSubkeys r s (n + 1) sk := by
  apply Vector.ext
  intro j hj
  rw [fillSubkeys_getElem, Vector.getElem_setIfInBounds, fillSubkeys_getElem]
  by_cases h : n = j
  · rw [if_neg (by omega), if_pos h, if_pos (by omega), h]
  · simp only [if_neg h, show j < n + 1 ↔ j < n by omega]

theorem deriveSlot_subkey (r : Nat) (sk : SubkeySet) (s : U64) (j : Nat) :
    deriveSlot r (sk, rotl64 s j) j = (sk.setIfInBounds j (subkey r s j), rotl64 s (j + 1)) := by
  simp only [deriveSlot, subkey, keyRotation, rotl64_rotl64]

/-- The inverse derivation reads for slot `j` the state that the forward one read, then undoes that rotation (rule R109). -/
theorem deriveSlotInv_subkey (r : Nat) (sk : SubkeySet) (s : U64) (j : Nat) :
    deriveSlotInv r (sk, rotl64 s (j + 1)) j = (sk.setIfInBounds j (subkey r s j), rotl64 s j) := by
  simp only [deriveSlotInv, subkey, keyRotation, ← rotl64_rotl64 s j 1, rotr64_rotl64]

theorem foldl_deriveSlot (r : Nat) (sk : SubkeySet) (s : U64) (n : Nat) :
    (List.range n).foldl (deriveSlot r) (sk, s) = (fillSubkeys r s n sk, rotl64 s n) := by
  induction n with
  | zero => rw [fillSubkeys_zero, show rotl64 s 0 = s from rotl64_whole s 0]; rfl
  | succ n ih =>
    rw [List.range_succ, List.foldl_concat, ih, deriveSlot_subkey, setIfInBounds_fillSubkeys]

theorem foldl_deriveSlotInv (r : Nat) (sk : SubkeySet) (s : U64) (n : Nat) :
    (List.range n).reverse.foldl (deriveSlotInv r) (sk, rotl64 s n) = (fillSubkeys r s n sk, s) := by
  induction n generalizing sk with
  | zero => rw [fillSubkeys_zero, show rotl64 s 0 = s from rotl64_whole s 0]; rfl
  | succ n ih =>
    rw [List.range_succ, List.reverse_concat, List.foldl_cons, deriveSlotInv_subkey, ih, fillSubkeys_setIfInBounds]

/-- A round fills every slot and turns the key state by as many bits (rule R105). -/
theorem deriveSubkeys_eq (r : Nat) (s : U64) :
    deriveSubkeys r s = (fillSubkeys r s subkeyCount emptySubkeys, rotl64 s subkeyCount) :=
  foldl_deriveSlot r emptySubkeys s subkeyCount

theorem deriveSubkeysInv_rotl64 (r : Nat) (s : U64) :
    deriveSubkeysInv r (rotl64 s subkeyCount) = (fillSubkeys r s subkeyCount emptySubkeys, s) :=
  foldl_deriveSlotInv r emptySubkeys s subkeyCount

/-- Every slot of a round (rule R107). -/
theorem deriveSubkeys_getElem (r : Nat) (s : U64) (j : Nat) (hj : j < 12) :
    (deriveSubkeys r s).1[j] = subkey r s j := by
  simp only [deriveSubkeys_eq, fillSubkeys_getElem]
  exact if_pos hj

/-- Settles O37. -/
theorem subkeySlotsClosedForm : Obligations.SubkeySlotsClosedForm := by
  unfold Obligations.SubkeySlotsClosedForm
  intro r s _
  exact ⟨fun j hj => deriveSubkeys_getElem r s j hj, deriveSubkeys_snd r s⟩

/-- Settles O38: both derivations fill the slots with the subkeys of the state before the round. -/
theorem subkeyInverseLaw : Obligations.SubkeyInverseLaw := by
  unfold Obligations.SubkeyInverseLaw
  intro r s _
  rw [deriveSubkeys_eq, deriveSubkeysInv_rotl64]

/-! ### The key state over several rounds (rules R105 and R106) -/

theorem foldl_deriveSubkeys_snd (rounds : List Nat) (s : U64) :
    rounds.foldl (fun k r => (deriveSubkeys r k).2) s = rotl64 s (subkeyCount * rounds.length) := by
  induction rounds generalizing s with
  | nil => exact (rotl64_whole s 0).symm
  | cons r rounds ih =>
    rw [List.foldl_cons, ih, deriveSubkeys_snd, rotl64_rotl64, List.length_cons, Nat.mul_succ, Nat.add_comm]

/-- Settles O39: sixteen rounds of twelve turns are three whole turns. -/
theorem blockRestoresKeyState : Obligations.BlockRestoresKeyState := by
  unfold Obligations.BlockRestoresKeyState
  intro s
  calc (List.range 16).foldl (fun k r => (deriveSubkeys r k).2) s
      = rotl64 s (subkeyCount * (List.range 16).length) := foldl_deriveSubkeys_snd _ s
    _ = s := rotl64_whole s 3

end Sys2Proof.Machine
end

section
/-! SUPPORT. The mixing function G (spec/41_mixing_g.md rules R120 to R123): its closed form, its inverse and its XOR law. -/

namespace Sys2Proof.Machine

/-! ### Bytes of a XOR -/

theorem highByte_xor (v w : U16) : highByte (v ^^^ w) = highByte v ^^^ highByte w :=
  BitVec.extractLsb'_xor

theorem lowByte_xor (v w : U16) : lowByte (v ^^^ w) = lowByte v ^^^ lowByte w :=
  BitVec.extractLsb'_xor

theorem beWord_xor_beWord (a b c d : U8) : beWord a b ^^^ beWord c d = beWord (a ^^^ c) (b ^^^ d) :=
  BitVec.xor_append

/-! ### The closed form (rule R122) -/

/-- The chain of rule R120 in two bytes: its link `b` drops the low byte, which makes its link `c` drop the high byte. -/
theorem mixG_eq_beWord (w : U16) (k0 k1 k2 k3 : U8) :
    mixG w k0 k1 k2 k3 =
      beWord (lowByte w ^^^ k1 ^^^ k2) (lowByte w ^^^ highByte w ^^^ k0 ^^^ k2 ^^^ k3) := by
  have hb (h l : U8) : l ^^^ k0 ^^^ h ^^^ k1 ^^^ l = h ^^^ k0 ^^^ k1 :=
    calc l ^^^ k0 ^^^ h ^^^ k1 ^^^ l
        = l ^^^ (l ^^^ (h ^^^ k0 ^^^ k1)) := by ac_rfl
      _ = h ^^^ k0 ^^^ k1 := xor_cancel_left _ _
  have hc (h l : U8) : h ^^^ k0 ^^^ k1 ^^^ k2 ^^^ (l ^^^ k0 ^^^ h) = l ^^^ k1 ^^^ k2 :=
    calc h ^^^ k0 ^^^ k1 ^^^ k2 ^^^ (l ^^^ k0 ^^^ h)
        = (h ^^^ k0) ^^^ ((h ^^^ k0) ^^^ (l ^^^ k1 ^^^ k2)) := by ac_rfl
      _ = l ^^^ k1 ^^^ k2 := xor_cancel_left _ _
  have hd (h l : U8) : l ^^^ k1 ^^^ k2 ^^^ k3 ^^^ (h ^^^ k0 ^^^ k1) = l ^^^ h ^^^ k0 ^^^ k2 ^^^ k3 :=
    calc l ^^^ k1 ^^^ k2 ^^^ k3 ^^^ (h ^^^ k0 ^^^ k1)
        = k1 ^^^ (k1 ^^^ (l ^^^ h ^^^ k0 ^^^ k2 ^^^ k3)) := by ac_rfl
      _ = l ^^^ h ^^^ k0 ^^^ k2 ^^^ k3 := xor_cancel_left _ _
  simp only [mixG, hb, hc, hd]

/-- Settles O40. -/
theorem mixingClosedForm : Obligations.MixingClosedForm := by
  unfold Obligations.MixingClosedForm
  exact mixG_eq_beWord

/-! ### G as a linear map and one XOR with the subkeys (rule R123) -/

/-- With zero subkeys, G moves the low byte up and puts the XOR of both bytes below it. -/
theorem mixG_zero_subkeys (w : U16) : mixG w 0 0 0 0 = beWord (lowByte w) (lowByte w ^^^ highByte w) := by
  simp only [mixG_eq_beWord, xor_zero]

/-- The subkeys enter G as one XOR with a word that does not depend on its operand. -/
theorem mixG_eq_xor_subkeys (w : U16) (k0 k1 k2 k3 : U8) :
    mixG w k0 k1 k2 k3 = mixG w 0 0 0 0 ^^^ beWord (k1 ^^^ k2) (k0 ^^^ k2 ^^^ k3) := by
  rw [mixG_eq_beWord, mixG_zero_subkeys, beWord_xor_beWord]
  simp only [BitVec.xor_assoc]

theorem mixG_zero_subkeys_xor (w1 w2 : U16) : mixG (w1 ^^^ w2) 0 0 0 0 = mixG w1 0 0 0 0 ^^^ mixG w2 0 0 0 0 := by
  simp only [mixG_zero_subkeys, beWord_xor_beWord, highByte_xor, lowByte_xor]
  ac_rfl

/-- The word that G with zero subkeys takes to `v`. -/
def unmixG (v : U16) : U16 := beWord (highByte v ^^^ lowByte v) (highByte v)

theorem unmixG_mixG (w : U16) : unmixG (mixG w 0 0 0 0) = w := by
  rw [mixG_zero_subkeys, unmixG, highByte_beWord, lowByte_beWord, xor_cancel_left, beWord_highByte_lowByte]

theorem mixG_unmixG (v : U16) : mixG (unmixG v) 0 0 0 0 = v := by
  rw [mixG_zero_subkeys, unmixG, highByte_beWord, lowByte_beWord, xor_cancel_left, beWord_highByte_lowByte]

theorem mixG_zero_subkeys_bijective : Function.Bijective (fun w : U16 => mixG w 0 0 0 0) :=
  Function.bijective_iff_has_inverse.mpr ⟨unmixG, unmixG_mixG, mixG_unmixG⟩

theorem mixG_bijective (k0 k1 k2 k3 : U8) : Function.Bijective (fun w : U16 => mixG w k0 k1 k2 k3) := by
  simp only [mixG_eq_xor_subkeys _ k0 k1 k2 k3]
  exact (xor_left_involutive (beWord (k1 ^^^ k2) (k0 ^^^ k2 ^^^ k3))).bijective.comp mixG_zero_subkeys_bijective

theorem mixG_xor_mixG (w1 w2 : U16) (k0 k1 k2 k3 : U8) :
    mixG w1 k0 k1 k2 k3 ^^^ mixG w2 k0 k1 k2 k3 = mixG (w1 ^^^ w2) 0 0 0 0 := by
  rw [mixG_eq_xor_subkeys w1, mixG_eq_xor_subkeys w2, mixG_zero_subkeys_xor, BitVec.xor_assoc, xor_xor_cancel_comm_assoc]

/-- Settles O41: the XOR with the subkeys' word is undone by itself, and it cancels in the XOR of two values. -/
theorem mixingBijectiveAndAffine : Obligations.MixingBijectiveAndAffine := by
  unfold Obligations.MixingBijectiveAndAffine
  exact fun k0 k1 k2 k3 => ⟨mixG_bijective k0 k1 k2 k3, fun w1 w2 => mixG_xor_mixG w1 w2 k0 k1 k2 k3⟩

end Sys2Proof.Machine
end

section
/-! SUPPORT. The round function F (spec/42_round_f.md rules R130 and R132): its outputs as sums of naturals modulo 2^16. -/

namespace Sys2Proof.Machine

/-- Wrapping at every multiplication and addition is wrapping once at the end (rule R132). -/
theorem toNat_weighted_sum (p a q b c : U16) :
    (p * a + q * b + c).toNat = (p.toNat * a.toNat + q.toNat * b.toNat + c.toNat) % 65536 := by
  simp only [BitVec.toNat_add, BitVec.toNat_mul, Nat.reducePow, Nat.mod_add_mod, Nat.add_mod_mod]

theorem weightOwn_toNat_mul (n : Nat) : weightOwn.toNat * n = n := Nat.one_mul n

theorem weightOther_toNat_mul (n : Nat) : weightOther.toNat * n = 2 * n := rfl

/-- Settles O42: each output is one weighted sum of the two G values and a pair of subkeys. -/
theorem roundFunctionModularSums : Obligations.RoundFunctionModularSums := by
  unfold Obligations.RoundFunctionModularSums
  intro w0 w1 sk
  simp only [roundF, toNat_weighted_sum, weightOwn_toNat_mul, weightOther_toNat_mul, beWord, and_self]

end Sys2Proof.Machine
end

section
/-! SUPPORT. The Feistel engine (spec/43_feistel_engine.md): the engine's turn in each phase and direction (rules R148 and R150),
what undoes a whitening and a round (rules R141 to R147), and with them what undoes a block (rule R151). -/

namespace Sys2Proof.Machine

/-! ### The engine's turn (rules R148 and R150) -/

/-- Settles O28. -/
theorem engineRoundOrder : Obligations.EngineRoundOrder := by
  unfold Obligations.EngineRoundOrder
  intro s hp hcnt
  have hturn : takeTurn .engine s = .next (roundStep s) := congrArg Host.Outcome.next (engineTurn_of_round hp hcnt)
  constructor
  all_goals
    intro hmode
    rw [hturn, roundStep, hmode]
    rfl

/-- Settles O29. -/
theorem engineOutputStep : Obligations.EngineOutputStep := by
  unfold Obligations.EngineOutputStep
  intro s
  have hturn (hp : s.phase = .active) (hcnt : s.cnt = 16) : takeTurn .engine s = .next (outputStep s) :=
    congrArg Host.Outcome.next (engineTurn_of_output hp (by rw [hcnt]; decide))
  refine ⟨?encrypt, ?decrypt, ?quiescent⟩
  case encrypt | decrypt =>
    intro hp hcnt hmode
    rw [hturn hp hcnt, outputStep, hmode]
    rfl
  case quiescent =>
    exact fun hp => congrArg Host.Outcome.next (engineTurn_of_quiescent hp)

/-- Settles O31: PHASE and CNT choose the engine's branch, and no branch names KEY or DIN. -/
theorem engineIgnoresKeyAndDin : Obligations.EngineIgnoresKeyAndDin := by
  unfold Obligations.EngineIgnoresKeyAndDin
  intro s k d
  by_cases hp : s.phase = .active
  · by_cases hcnt : s.cnt.toNat < roundCount
    · rw [engineTurn_of_round (s := s) hp hcnt]
      exact engineTurn_of_round hp hcnt
    · rw [engineTurn_of_output (s := s) hp hcnt]
      exact engineTurn_of_output hp hcnt
  · rw [engineTurn_of_quiescent (s := s) hp]
    exact engineTurn_of_quiescent hp

/-! ### Whitenings (rules R141, R142, R146 and R147) -/

theorem block_eta (b : Block) : #v[b[0], b[1], b[2], b[3]] = b := by
  apply Vector.ext
  intro i hi
  match i, hi with
  | 0, _ => rfl
  | 1, _ => rfl
  | 2, _ => rfl
  | 3, _ => rfl

/-- Settles O45: on both sides each word meets the same key word twice, and the words that one side moves the other moves back. -/
theorem whiteningInverses : Obligations.WhiteningInverses := by
  unfold Obligations.WhiteningInverses
  intro b kw
  refine ⟨?_, ?_, ?_, ?_⟩
  all_goals
    conv_rhs => rw [← block_eta b]
    simp [whitenInDec, whitenOutEnc, whitenInEnc, whitenOutDec, xor_cancel_right]

/-! ### Rounds (rules R143 to R145) -/

/-- Settles O43: both updates are built from the values before the round alone. -/
theorem roundRegisterUpdates : Obligations.RoundRegisterUpdates := by
  unfold Obligations.RoundRegisterUpdates
  exact fun n x => ⟨rfl, rfl, rfl, rfl⟩

/-- The forward update keeps the two words that F was applied to, as the last two, so the inverse one meets the same F. -/
theorem mixInverse_mixForward (sk : SubkeySet) (r : Block) : mixInverse sk (mixForward sk r) = r := by
  conv_rhs => rw [← block_eta r]
  simp [mixInverse, mixForward, roundRotation]

theorem mixForward_mixInverse (sk : SubkeySet) (r : Block) : mixForward sk (mixInverse sk r) = r := by
  conv_rhs => rw [← block_eta r]
  simp [mixInverse, mixForward, roundRotation]

theorem roundInv_roundFwd (n : Nat) (x : Block × U64) : roundInv n (roundFwd n x) = x := by
  obtain ⟨r, s⟩ := x
  simp only [roundInv, roundFwd, deriveSubkeys_eq, deriveSubkeysInv_rotl64, mixInverse_mixForward]

theorem roundFwd_roundInv (n : Nat) (x : Block × U64) : roundFwd n (roundInv n x) = x := by
  obtain ⟨r, s⟩ := x
  rw [← rotl64_rotr64 s subkeyCount]
  simp only [roundInv, roundFwd, deriveSubkeys_eq, deriveSubkeysInv_rotl64, mixForward_mixInverse]

/-- Settles O44. -/
theorem roundInverseLaw : Obligations.RoundInverseLaw := by
  unfold Obligations.RoundInverseLaw
  exact fun n x _ => ⟨roundInv_roundFwd n x, roundFwd_roundInv n x⟩

/-! ### Blocks (rules R149 and R151) -/

/-- The other direction. -/
def Mode.opposite : Mode → Mode
  | .encrypt => .decrypt
  | .decrypt => .encrypt

theorem whitenIn_opposite_whitenOut (m : Mode) (r kw : Block) : whitenIn m.opposite (whitenOut m r kw) kw = r := by
  obtain ⟨hencrypt, -, hdecrypt, -⟩ := whiteningInverses r kw
  cases m with
  | encrypt => exact hencrypt
  | decrypt => exact hdecrypt

theorem whitenOut_opposite_whitenIn (m : Mode) (b kw : Block) : whitenOut m.opposite (whitenIn m b kw) kw = b := by
  obtain ⟨-, hdecrypt, -, hencrypt⟩ := whiteningInverses b kw
  cases m with
  | encrypt => exact hencrypt
  | decrypt => exact hdecrypt

/-- Steps undone one by one, the last of them first. -/
theorem foldl_reverse_foldl {α β : Type} (f g : α → β → α) (hundo : ∀ x n, g (f x n) n = x) (ns : List β) (x : α) :
    ns.reverse.foldl g (ns.foldl f x) = x := by
  induction ns generalizing x with
  | nil => rfl
  | cons n ns ih => rw [List.reverse_cons, List.foldl_concat, List.foldl_cons, ih, hundo]

/-- The rounds of a block in direction `m`, one after another. -/
def allRounds (m : Mode) (x : Block × U64) : Block × U64 :=
  (List.range roundCount).foldl (fun x n => roundOf m n x) x

theorem blockRounds_roundCount (m : Mode) (b kw : Block) :
    blockRounds m b kw roundCount = allRounds m (whitenIn m b kw, k64 kw) := rfl

theorem allRounds_decrypt (x : Block × U64) :
    allRounds .decrypt x = (List.range roundCount).reverse.foldl (fun x n => roundInv n x) x := by
  have hreverse : (List.range roundCount).reverse = (List.range roundCount).map (lastRound - ·) := by decide
  rw [hreverse, List.foldl_map]
  rfl

/-- The rounds of the other direction are the inverse rounds in reverse order (rule R148), so they undo those of this one. -/
theorem allRounds_opposite (m : Mode) (x : Block × U64) : allRounds m.opposite (allRounds m x) = x := by
  cases m with
  | encrypt =>
    rw [Mode.opposite, allRounds_decrypt]
    exact foldl_reverse_foldl (fun x n => roundFwd n x) (fun x n => roundInv n x) (fun x n => roundInv_roundFwd n x) _ x
  | decrypt =>
    have hundo := foldl_reverse_foldl (fun x n => roundInv n x) (fun x n => roundFwd n x)
      (fun x n => roundFwd_roundInv n x) (List.range roundCount).reverse x
    rw [List.reverse_reverse, ← allRounds_decrypt] at hundo
    exact hundo

/-- A block leaves the key state as the other direction's block expects it. -/
theorem allRounds_snd (m : Mode) (b kw : Block) : (allRounds m (whitenIn m b kw, k64 kw)).2 = k64 kw :=
  (blockRounds_snd m b kw roundCount).trans (blockKeyState_roundCount m kw)

theorem blockFunction_opposite (m : Mode) (b kw : Block) : blockFunction m.opposite (blockFunction m b kw) kw = b := by
  have hrounds : ((allRounds m (whitenIn m b kw, k64 kw)).1, k64 kw) = allRounds m (whitenIn m b kw, k64 kw) :=
    Prod.ext rfl (allRounds_snd m b kw).symm
  simp only [blockFunction_eq_whitenOut, blockRounds_roundCount]
  rw [whitenIn_opposite_whitenOut, hrounds, allRounds_opposite, whitenOut_opposite_whitenIn]

/-- Settles O48. -/
theorem decryptInvertsEncrypt : Obligations.DecryptInvertsEncrypt := by
  unfold Obligations.DecryptInvertsEncrypt
  exact fun p kw => ⟨blockFunction_opposite .encrypt p kw, blockFunction_opposite .decrypt p kw⟩

/-! ### An accepted command's block (rules R193 and R194) -/

theorem runTurns_replicate_engine (n : Nat) (s : State) :
    runTurns (List.replicate n .engine) s = .next (engineTurns n s) := by
  induction n generalizing s with
  | zero => rfl
  | succ n ih => exact ih (engineTurn s)

/-- The engine alone is one of the interleavings under which a block ends with its block function's output. -/
theorem engineTurns_startBlock {s : State} (m : Mode) (b : Block) (hks : s.ks = k64 s.kw) :
    (engineTurns 17 (startBlock m b s)).dout = codecWrite (blockFunction m b s.kw) ∧
    (engineTurns 17 (startBlock m b s)).phase = .done ∧ (engineTurns 17 (startBlock m b s)).cnt = 16 ∧
    (engineTurns 17 (startBlock m b s)).mode = m ∧ (engineTurns 17 (startBlock m b s)).ks = k64 s.kw ∧
    (engineTurns 17 (startBlock m b s)).kw = s.kw := by
  obtain ⟨hphase, hcnt, hmode, hkw, hks', hdout⟩ :=
    blockResultUnderAnyInterleaving (startBlock m b s) _ b (List.replicate 16 .engine) rfl rfl hks rfl
      (fun _ hx => .inr (List.eq_of_mem_replicate hx)) List.count_replicate_self (runTurns_replicate_engine 17 _)
  exact ⟨hdout, hphase, hcnt, hmode, hks', hkw⟩

theorem acceptBlock_of_ne_zero {len : BitVec 4} (hlen : len ≠ 0) (m : Mode) (s : State) :
    acceptBlock m len s = startBlock m (codecRead s.din len.toNat) s :=
  if_neg fun hend => hlen ((isEndOfStream_iff len).1 hend)

/-- Settles O34: the command starts the block of the padded input, and the engine's seventeen turns finish it. -/
theorem blockOperationComputesBlockFunction : Obligations.BlockOperationComputesBlockFunction := by
  unfold Obligations.BlockOperationComputesBlockFunction
  intro s len hp hvalid hks hlo hhi
  have hlen : len ≠ 0 := by
    rintro rfl
    exact absurd hlo (by decide)
  have hcheck {i : Instr} (hi : i = .enc len ∨ i = .dec len) : check (.ok i) s = .none :=
    (check_block_none_iff hi s).2 ⟨hp, hhi, .inr hvalid⟩
  constructor
  · refine ⟨startBlock .encrypt (codecRead s.din len.toNat) s, ?_, engineTurns_startBlock .encrypt _ hks⟩
    rw [exec_of_check_none (hcheck (.inl rfl)), effect, acceptBlock_of_ne_zero hlen]
  · refine ⟨startBlock .decrypt (codecRead s.din len.toNat) s, ?_, engineTurns_startBlock .decrypt _ hks⟩
    rw [exec_of_check_none (hcheck (.inr rfl)), effect, acceptBlock_of_ne_zero hlen]

end Sys2Proof.Machine
end

section
/-! SUPPORT. The block codec byte by byte (spec/44_block_codec.md rules R170 and R175), the chunks of a stream (rule R174), and the
statements about them. -/

namespace Sys2Proof.Machine

/-! ### Bytes and words (rules R170, R175 and R176) -/

theorem codecRead_getElem (din : Vector U8 8) (len i : Nat) (h : i < 4) :
    (codecRead din len)[i] = beWord (paddedByte len (2 * i) din[2 * i]) (paddedByte len (2 * i + 1) din[2 * i + 1]) := by
  interval_cases i <;> rfl

theorem codecWrite_getElem_even (o : Block) (i : Nat) (h : i < 4) : (codecWrite o)[2 * i] = highByte o[i] := by
  interval_cases i <;> rfl

theorem codecWrite_getElem_odd (o : Block) (i : Nat) (h : i < 4) : (codecWrite o)[2 * i + 1] = lowByte o[i] := by
  interval_cases i <;> rfl

theorem paddedByte_of_lt {len j : Nat} (h : j < len) (b : U8) : paddedByte len j b = b := if_pos h

/-- With all eight bytes there is no padding. -/
theorem codecRead_eight_getElem (din : Vector U8 8) (i : Nat) (h : i < 4) :
    (codecRead din 8)[i] = beWord din[2 * i] din[2 * i + 1] := by
  rw [codecRead_getElem _ _ _ h, paddedByte_of_lt (by omega), paddedByte_of_lt (by omega)]

/-- Settles O46: `paddedByte` is the statement's choice between a byte of DIN and 0, and `beWord` its concatenation. -/
theorem codecReadPadsWithZeros : Obligations.CodecReadPadsWithZeros := by
  unfold Obligations.CodecReadPadsWithZeros
  intro din len i h _ _
  exact codecRead_getElem din len i h

theorem codecRead_codecWrite (o : Block) : codecRead (codecWrite o) 8 = o := by
  apply Vector.ext
  intro i hi
  rw [codecRead_eight_getElem _ _ hi, codecWrite_getElem_even _ _ hi, codecWrite_getElem_odd _ _ hi,
    beWord_highByte_lowByte]

theorem codecWrite_codecRead (b : Vector U8 8) : codecWrite (codecRead b 8) = b := by
  apply Vector.ext
  intro j hj
  obtain ⟨i, rfl | rfl⟩ := Nat.even_or_odd' j
  · rw [codecWrite_getElem_even _ _ (by omega), codecRead_eight_getElem, highByte_beWord]
  · rw [codecWrite_getElem_odd _ _ (by omega), codecRead_eight_getElem, lowByte_beWord]

/-- Settles O47: a word is the two bytes it is split into. -/
theorem codecRoundTrip : Obligations.CodecRoundTrip := by
  unfold Obligations.CodecRoundTrip
  exact ⟨codecRead_codecWrite, codecWrite_codecRead⟩

/-! ### The chunks of a stream (rule R174) -/

/-- The LEN operands of the bytes left after the full blocks: none, or one short block. -/
def shortLens (r : Nat) : List (BitVec 4) := if r = 0 then [] else [BitVec.ofNat 4 r]

/-- The LEN operands of the blocks of a stream of `n` bytes, without the end of stream. -/
def chunkLens (n : Nat) : List (BitVec 4) := List.replicate (n / 8) 8 ++ shortLens (n % 8)

theorem streamLens_eq_chunkLens_append (n : Nat) : streamLens n = chunkLens n ++ [0] := rfl

theorem shortLens_sum {r : Nat} (h : r < 8) : ((shortLens r).map BitVec.toNat).sum = r := by
  unfold shortLens
  split
  case isTrue hzero => exact hzero.symm
  case isFalse =>
    simp only [List.map_singleton, List.sum_singleton, BitVec.toNat_ofNat]
    omega

theorem shortLens_length (r : Nat) : (shortLens r).length = if r = 0 then 0 else 1 := by
  unfold shortLens
  split <;> rfl

theorem toNat_of_mem_shortLens {r : Nat} {len : BitVec 4} (hr : r < 8) (h : len ∈ shortLens r) :
    0 < len.toNat ∧ len.toNat ≤ 8 := by
  unfold shortLens at h
  split at h
  · cases h
  · rw [List.mem_singleton.1 h, BitVec.toNat_ofNat]
    omega

theorem chunkLens_sum (n : Nat) : ((chunkLens n).map BitVec.toNat).sum = n := by
  rw [chunkLens, List.map_append, List.sum_append, List.map_replicate, List.sum_replicate,
    shortLens_sum (Nat.mod_lt n (by decide))]
  exact Nat.div_add_mod' n 8

theorem chunkLens_length (n : Nat) : (chunkLens n).length = (n + 7) / 8 := by
  rw [chunkLens, List.length_append, List.length_replicate, shortLens_length]
  split <;> omega

/-- A chunk holds at least one byte, so its LEN is never that of the end of stream. -/
theorem toNat_of_mem_chunkLens {n : Nat} {len : BitVec 4} (h : len ∈ chunkLens n) : 0 < len.toNat ∧ len.toNat ≤ 8 := by
  obtain hfull | hshort := List.mem_append.1 h
  · rw [List.eq_of_mem_replicate hfull]
    decide
  · exact toNat_of_mem_shortLens (Nat.mod_lt n (by decide)) hshort

theorem chunkLens_filter_ne_zero (n : Nat) : (chunkLens n).filter (fun len => len ≠ 0) = chunkLens n := by
  rw [List.filter_eq_self]
  intro len h
  have hpos := (toNat_of_mem_chunkLens h).1
  rw [decide_eq_true_iff]
  rintro rfl
  exact absurd hpos (by decide)

/-- Settles O60: the end of stream adds no byte and no block to the chunks. -/
theorem streamCommandsCoverStream : Obligations.StreamCommandsCoverStream := by
  unfold Obligations.StreamCommandsCoverStream
  intro n
  rw [streamLens_eq_chunkLens_append]
  refine ⟨?sum, ?bound, List.getLast?_concat, ?blocks⟩
  case sum =>
    rw [List.map_append, List.sum_append, chunkLens_sum]
    rfl
  case bound =>
    intro len h
    obtain hchunk | hend := List.mem_append.1 h
    · exact (toNat_of_mem_chunkLens hchunk).2
    · rw [List.mem_singleton.1 hend]
      decide
  case blocks =>
    rw [List.filter_append, chunkLens_filter_ne_zero, List.length_append, chunkLens_length]
    rfl

end Sys2Proof.Machine
end

section
/-! SUPPORT. The five commands as the host meets them (spec/45_commands.md rules R190 to R197): the words of each OP, the two
outcomes of a command, the frames of an accepted command, and the statements about them. -/

namespace Sys2Proof.Machine

/-! ### The words of a command -/

theorem executeCommand_encode (i : Instr) (s : State) : executeCommand (encode i) s = exec i s :=
  executeCommand_of_decode_ok (decode_encode i) s

/-- Of the words with one OP, other than that of ENC or DEC, only the one whose other bits are 0 is a command; the rest are
rejected with BADCMD (spec/30_encoding.md rule R82). -/
theorem executeCommand_of_stray_bits {v : U32} {op : U8} (henc : op ≠ 0x02) (hdec : op ≠ 0x03) (hop : opField v = op)
    (hne : v ≠ commandWord 0 op) (s : State) : executeCommand v s = .next (reject .badcmd s) := by
  refine (illegal_of_decode_ne_ok (fun i hi => hne ?_) s).2
  obtain ⟨hrsvd, hlen | hblock, -⟩ := fields_of_decode_ok hi
  · exact eq_commandWord_iff.2 ⟨hrsvd, hlen, hop⟩
  · rw [hop] at hblock
    exact absurd hblock (not_or_intro henc hdec)

/-- Settles O10: a code comes from the checks of a command, or from an Illegal word. -/
theorem rejectionOnlySetsErr : Obligations.RejectionOnlySetsErr := by
  unfold Obligations.RejectionOnlySetsErr
  intro v s hcheck
  cases hdecode : decode v with
  | ok i =>
    rw [hdecode] at hcheck
    exact (executeCommand_of_decode_ok hdecode s).trans (exec_of_check_ne_none hcheck)
  | error e => exact executeCommand_of_decode_error hdecode s

/-! ### NOP and CLRERR -/

/-- Settles O6. -/
theorem nopHasNoEffect : Obligations.NopHasNoEffect := by
  unfold Obligations.NopHasNoEffect
  intro s
  have hexec : exec .nop s = .next s := exec_of_check_none rfl
  exact ⟨hexec, (executeCommand_encode .nop s).trans hexec,
    fun v hop hne => executeCommand_of_stray_bits (by decide) (by decide) hop hne s⟩

/-- Settles O11. -/
theorem clrerrClearsErr : Obligations.ClrerrClearsErr := by
  unfold Obligations.ClrerrClearsErr
  intro s
  have hexec : exec .clrerr s = .next (clearErr s) := exec_of_check_none rfl
  exact ⟨hexec, (executeCommand_encode .clrerr s).trans hexec,
    fun v hop hne => executeCommand_of_stray_bits (by decide) (by decide) hop hne s⟩

/-! ### KEYLOAD -/

theorem append_beWord {n : Nat} (x : BitVec n) (a b : U8) :
    x ++ beWord a b = (x ++ a ++ b).cast (Nat.add_assoc n 8 8) := by
  rw [BitVec.append_assoc]
  rfl

/-- The key state that KEYLOAD packs is the first eight key bytes in order (spec/40_key_schedule.md rules R100 and R101). -/
theorem k64_keyWords (key : Vector U8 16) :
    k64 (keyWords key) = key[0] ++ key[1] ++ key[2] ++ key[3] ++ key[4] ++ key[5] ++ key[6] ++ key[7] := by
  show beWord key[0] key[1] ++ beWord key[2] key[3] ++ beWord key[4] key[5] ++ beWord key[6] key[7] = (_ : U64)
  rw [append_beWord, append_beWord, append_beWord]
  rfl

theorem check_keyload_of_active {s : State} (hp : s.phase = .active) : check (.ok .keyload) s = .busy := if_pos hp

/-- Settles O7. -/
theorem keyloadLoadsKey : Obligations.KeyloadLoadsKey := by
  unfold Obligations.KeyloadLoadsKey
  intro s
  refine ⟨fun hquiet => ?accepted, fun hactive => ?busy, executeCommand_encode .keyload s,
    fun v hop hne => executeCommand_of_stray_bits (by decide) (by decide) hop hne s⟩
  case accepted =>
    rw [exec_of_check_none ((check_keyload_none_iff s).2 hquiet), ← k64_keyWords]
    rfl
  case busy =>
    have hcheck := check_keyload_of_active hactive
    rw [exec_of_check_ne_none (by simp [hcheck]), hcheck]
    rfl

/-! ### ENC and DEC -/

/-- Settles O8: both commands pass the same checks, and the operand chooses the branch of `acceptBlock`. -/
theorem acceptBlockWritesState : Obligations.AcceptBlockWritesState := by
  unfold Obligations.AcceptBlockWritesState
  intro s len hquiet
  refine ⟨fun hzero => ?endOfStream, fun hlo hhi hvalid => ?block⟩
  case endOfStream =>
    subst hzero
    have hcheck {i : Instr} (hi : i = .enc 0 ∨ i = .dec 0) : check (.ok i) s = .none :=
      (check_block_none_iff hi s).2 ⟨hquiet, by decide, .inl rfl⟩
    exact ⟨exec_of_check_none (hcheck (.inl rfl)), exec_of_check_none (hcheck (.inr rfl))⟩
  case block =>
    have hlen : len ≠ 0 := by
      rintro rfl
      exact absurd hlo (by decide)
    have hcheck {i : Instr} (hi : i = .enc len ∨ i = .dec len) : check (.ok i) s = .none :=
      (check_block_none_iff hi s).2 ⟨hquiet, hhi, .inr hvalid⟩
    rw [exec_of_check_none (hcheck (.inl rfl)), exec_of_check_none (hcheck (.inr rfl)), effect, effect,
      acceptBlock_of_ne_zero hlen, acceptBlock_of_ne_zero hlen]
    exact ⟨rfl, rfl⟩

/-! ### The frame of all five commands -/

/-- ENC and DEC write R, MODE, PHASE, CNT and EOS at most (spec/45_commands.md rule R197). -/
theorem acceptBlock_exists_with (m : Mode) (len : BitVec 4) (s : State) :
    ∃ r p c e, acceptBlock m len s = { s with r := r, mode := m, phase := p, cnt := c, eos := e } := by
  rcases acceptBlock_cases m len s with ⟨-, h⟩ | ⟨-, h⟩
  · exact ⟨_, _, _, _, h⟩
  · exact ⟨_, _, _, _, h⟩

theorem acceptBlock_frame (m : Mode) (len : BitVec 4) (s : State) :
    (acceptBlock m len s).key = s.key ∧ (acceptBlock m len s).din = s.din ∧ (acceptBlock m len s).dout = s.dout ∧
    (acceptBlock m len s).host = s.host ∧ (acceptBlock m len s).sched = s.sched ∧
    (acceptBlock m len s).replies = s.replies := by
  obtain ⟨r, p, c, e, h⟩ := acceptBlock_exists_with m len s
  simp [h]

/-- No command writes KEY, DIN, DOUT or the agents' data. -/
theorem effect_frame (i : Instr) (s : State) :
    (effect i s).key = s.key ∧ (effect i s).din = s.din ∧ (effect i s).dout = s.dout ∧ (effect i s).host = s.host ∧
    (effect i s).sched = s.sched ∧ (effect i s).replies = s.replies := by
  cases i with
  | nop => simp [effect]
  | keyload => simp [effect]
  | enc len => exact acceptBlock_frame .encrypt len s
  | dec len => exact acceptBlock_frame .decrypt len s
  | clrerr => simp [effect]

theorem acceptBlock_ks (m : Mode) (len : BitVec 4) (s : State) : (acceptBlock m len s).ks = s.ks := by
  obtain ⟨r, p, c, e, h⟩ := acceptBlock_exists_with m len s
  rw [h]

theorem effect_ks_of_ne_keyload {i : Instr} (hi : i ≠ .keyload) (s : State) : (effect i s).ks = s.ks := by
  cases i with
  | nop => rfl
  | keyload => exact absurd rfl hi
  | enc len => exact acceptBlock_ks _ _ _
  | dec len => exact acceptBlock_ks _ _ _
  | clrerr => rfl

/-- Of the commands only ENC and DEC write R, MODE, PHASE, CNT and EOS. -/
theorem effect_engine_frame {i : Instr} (hi : ∀ len, i ≠ .enc len ∧ i ≠ .dec len) (s : State) :
    (effect i s).r = s.r ∧ (effect i s).mode = s.mode ∧ (effect i s).phase = s.phase ∧ (effect i s).cnt = s.cnt ∧
    (effect i s).eos = s.eos := by
  cases i with
  | nop => simp [effect]
  | keyload => simp [effect]
  | enc len => exact absurd rfl (hi len).1
  | dec len => exact absurd rfl (hi len).2
  | clrerr => simp [effect]

/-- No accepted command puts a code in ERR. -/
theorem effect_err_of_err_none (i : Instr) {s : State} (h : s.err = .none) : (effect i s).err = .none := by
  by_cases hi : i = .clrerr
  · rw [hi]
    rfl
  · exact (effect_err_of_ne_clrerr hi s).trans h

/-- Settles O12: an accepted command has the frame of its effect, and a rejected one that of `reject`. -/
theorem commandFrame : Obligations.CommandFrame := by
  unfold Obligations.CommandFrame
  intro i s t h
  rw [exec_eq] at h
  rcases acceptOrReject_next h with ⟨hcheck, rfl⟩ | ⟨hcheck, rfl⟩
  · refine ⟨effect_frame i s, fun hi => ?key, fun hi => effect_engine_frame hi s,
      fun hi _ => effect_err_of_ne_clrerr hi s, fun herr => iff_of_true (effect_err_of_err_none i herr) hcheck⟩
    case key =>
      exact ⟨effect_kw_of_ne_keyload hi s, effect_ks_of_ne_keyload hi s, effect_keyValid_of_ne_keyload hi s⟩
  · refine ⟨by simp, fun _ => by simp, fun _ => by simp, fun _ hpass => absurd hpass hcheck, fun herr => ?code⟩
    case code => rw [reject_err, if_pos herr]

end Sys2Proof.Machine
end

section
/-! SUPPORT. The exceptions of the core (spec/60_exceptions.md): the code that the checks give in each situation and the rejection it
leads to (rules R231 and R232), the host during a block (rule R232 and spec/70_reset_and_hazards.md rules R270 and R272), the
turns that are refused (rules R243 and R260), and the statements about them. -/

namespace Sys2Proof.Machine

/-! ### The checks in their order (rule R231) -/

/-- ENC and DEC have one list of checks: the direction plays no part in it. -/
theorem check_dec_eq_check_enc (len : BitVec 4) (s : State) : check (.ok (.dec len)) s = check (.ok (.enc len)) s := rfl

theorem check_enc_of_active {s : State} (len : BitVec 4) (hp : s.phase = .active) : check (.ok (.enc len)) s = .busy :=
  if_pos hp

theorem check_enc_of_badLen {s : State} {len : BitVec 4} (hp : s.phase ≠ .active) (hlen : 8 < len.toNat) :
    check (.ok (.enc len)) s = .badlen := by
  have hbad : isBadLen len = true := (isBadLen_iff len).2 hlen
  rw [check, if_neg hp, if_pos hbad]

theorem check_enc_of_no_key {s : State} {len : BitVec 4} (hp : s.phase ≠ .active) (hlo : 1 ≤ len.toNat)
    (hhi : len.toNat ≤ 8) (hkey : s.keyValid = false) : check (.ok (.enc len)) s = .nokey := by
  have hgood : ¬ isBadLen len = true := fun h => absurd ((isBadLen_iff len).1 h) (Nat.not_lt.2 hhi)
  have hblock : ¬ isEndOfStream len = true := fun h => by
    rw [(isEndOfStream_iff len).1 h] at hlo
    exact absurd hlo (by decide)
  rw [check, if_neg hp, if_neg hgood, if_neg hblock, hkey]
  rfl

/-- A code other than 0 is the one the rejection reports (rule R232). -/
theorem exec_of_check_eq {i : Instr} {code : ErrCode} {s : State} (hcheck : check (.ok i) s = code)
    (hcode : code ≠ .none) : exec i s = .next (reject code s) := by
  subst hcheck
  exact exec_of_check_ne_none hcode

/-- A code from the checks that ENC and DEC share rejects either command. -/
theorem exec_enc_dec_of_check_eq {len : BitVec 4} {code : ErrCode} {s : State} (hcheck : check (.ok (.enc len)) s = code)
    (hcode : code ≠ .none) : exec (.enc len) s = .next (reject code s) ∧ exec (.dec len) s = .next (reject code s) :=
  ⟨exec_of_check_eq hcheck hcode, exec_of_check_eq ((check_dec_eq_check_enc len s).trans hcheck) hcode⟩

theorem check_enc_dec_of_pass {len : BitVec 4} {s : State} (hp : s.phase ≠ .active) (hhi : len.toNat ≤ 8)
    (hkey : len = 0 ∨ s.keyValid = true) : check (.ok (.enc len)) s = .none ∧ check (.ok (.dec len)) s = .none := by
  have hpass : check (.ok (.enc len)) s = .none := (check_enc_none_iff len s).2 ⟨hp, hhi, hkey⟩
  exact ⟨hpass, (check_dec_eq_check_enc len s).trans hpass⟩

/-- Settles O9: BADCMD first, then BUSY, BADLEN and NOKEY, each asked only of a command that got past those before it. -/
theorem checksInPriorityOrder : Obligations.ChecksInPriorityOrder := by
  unfold Obligations.ChecksInPriorityOrder
  intro s
  refine ⟨fun v e hdecode => executeCommand_of_decode_error hdecode s, ⟨rfl, rfl⟩, fun hactive => ?busy,
    fun hquiet => ⟨(check_keyload_none_iff s).2 hquiet, fun len => ⟨fun hlen => ?badlen, fun hzero => ?endOfStream,
      fun hlo hhi hkey => ?nokey, fun _ hhi hkey => ?block⟩⟩⟩
  case busy =>
    exact ⟨exec_of_check_eq (check_keyload_of_active hactive) (by decide),
      fun len => exec_enc_dec_of_check_eq (check_enc_of_active len hactive) (by decide)⟩
  case badlen => exact exec_enc_dec_of_check_eq (check_enc_of_badLen hquiet hlen) (by decide)
  case endOfStream => exact check_enc_dec_of_pass hquiet (by simp [hzero]) (.inl hzero)
  case nokey => exact exec_enc_dec_of_check_eq (check_enc_of_no_key hquiet hlo hhi hkey) (by decide)
  case block => exact check_enc_dec_of_pass hquiet hhi (.inr hkey)

/-! ### The host during a block -/

/-- Settles O32: the host's turn changes the core by one `HostChange`, which in a block leaves alone all that the block depends on;
the agents' data are apart from it. -/
theorem hostCannotDisturbBlock : Obligations.HostCannotDisturbBlock := by
  unfold Obligations.HostCannotDisturbBlock
  intro s t hactive hturn
  obtain ⟨u, hchange, hosts, sched, replies, rfl⟩ := hostTurn_next hturn
  obtain ⟨hphase, hframe⟩ := hchange.block_frame hactive
  exact ⟨hphase.trans hactive, hframe⟩

/-! ### Refused turns -/

theorem step_of_sched_cons {s : State} {x : Turn} {ts : List Turn} (hsched : s.sched = x :: ts) :
    step s = takeTurn x (afterTurn s) :=
  step_of_nextTurn (by rw [nextTurn, hsched])

/-- Settles O57: the turn ordered next is taken, and these two are refused whatever the state. -/
theorem forbiddenTurnsRefused : Obligations.ForbiddenTurnsRefused := by
  unfold Obligations.ForbiddenTurnsRefused
  intro s ts
  exact ⟨fun hreset => step_of_sched_cons hreset, fun hsecond => step_of_sched_cons hsecond⟩

end Sys2Proof.Machine
end

section
/-! SUPPORT. The turns after the order is used up (log entry 2; spec/70_reset_and_hazards.md rules R276 and R281), and the statement
about them. -/

namespace Sys2Proof.Machine

theorem nextTurn_of_unordered_active {s : State} (hsched : s.sched = []) (hp : s.phase = .active) :
    nextTurn s = .engine := by
  rw [nextTurn, hsched]
  exact if_pos hp

theorem nextTurn_of_unordered_quiescent {s : State} (hsched : s.sched = []) (hp : s.phase ≠ .active) :
    nextTurn s = .host := by
  rw [nextTurn, hsched]
  exact if_neg hp

/-- No turn is taken off an order that is used up. -/
theorem afterTurn_of_unordered {s : State} (hsched : s.sched = []) : afterTurn s = s := by
  rw [afterTurn, hsched, List.tail_nil, ← hsched]
  rfl

theorem step_of_unordered {s : State} (hsched : s.sched = []) : step s = takeTurn (nextTurn s) s := by
  rw [step, afterTurn_of_unordered hsched]

theorem hostTurn_of_host_nil {s : State} (hhost : s.host = []) : hostTurn s = .next s := by
  rw [hostTurn, hhost]

/-- Settles O58: PHASE alone decides the turn when none is ordered, and a run that has ended gives it to a host whose turn passes. -/
theorem unorderedTurnServesEngine : Obligations.UnorderedTurnServesEngine := by
  unfold Obligations.UnorderedTurnServesEngine
  intro s hsched
  have hquiet (hp : s.phase ≠ .active) : step s = hostTurn s := by
    rw [step_of_unordered hsched, nextTurn_of_unordered_quiescent hsched hp, takeTurn]
  refine ⟨fun hactive => ?active, hquiet, fun ⟨hhost, hquiescent⟩ => ?ended⟩
  case active => rw [step_of_unordered hsched, nextTurn_of_unordered_active hsched hactive, takeTurn]
  case ended => exact (hquiet hquiescent).trans (hostTurn_of_host_nil hhost)

end Sys2Proof.Machine
end
